-- ==== Sys2Proof/Word.lean ====
section
/-! DEFINITION. The word types of the CORE and their plainest arithmetic (00_scope.md R7, R8, R9). -/

namespace Sys2Proof

/-- One byte: a general register, a timer, a memory cell (10_state.md R20, R32; 20_memory.md R60). -/
abbrev Byte := BitVec 8

/-- Sixteen bits: PC, I, a stack entry, OPC, FPC (10_state.md R24, R26, R29, R38, R39). -/
abbrev Word := BitVec 16

/-- A 4-bit field of an instruction word (30_encoding.md R91). -/
abbrev Nibble := BitVec 4

/-- The 12-bit address field NNN (30_encoding.md R91). -/
abbrev Addr := BitVec 12

/-- The index of a general register, 0 to 15 (10_state.md R20). -/
abbrev Reg := Fin 16

/-- Register index 15, the flag output VF (10_state.md R21). -/
abbrev regVF : Reg := 15

/-- `zext_16` of a 12-bit address (00_scope.md R8; 30_encoding.md R92). -/
def zextAddr (a : Addr) : Word := a.setWidth 16

/-- `zext_16` of a byte (00_scope.md R8). -/
def zextByte (b : Byte) : Word := b.setWidth 16

/-- The big-endian word of two bytes, the first at the lower address (20_memory.md R66). -/
def wordOfBytes (hi lo : Byte) : Word := hi ++ lo

/-- Bits 15 to 8 of a word: the byte stored at the lower address (20_memory.md R66). -/
def highByte (w : Word) : Byte := w.extractLsb' 8 8

/-- Bits 7 to 0 of a word: the byte stored at the higher address (20_memory.md R66). -/
def lowByte (w : Word) : Byte := w.extractLsb' 0 8

end Sys2Proof
end

