-- ==== Sys2Proof/Config.lean ====
section
/-! DEFINITION. The implementation parameters of 00_scope.md R6: the sizes the source fixes, the policy
parameters with their default values, and the free values nothing constrains. -/

namespace Sys2Proof

namespace Config

/-- MEM_SIZE (R6, R60). -/
abbrev memSize : Nat := 4096
/-- FONT_SIZE (R6, R63); FONT_BASE is 0. -/
abbrev fontSize : Nat := 80
/-- PROGRAM_BASE (R6, R62): the first address instructions may write, and the reset PC. -/
abbrev programBase : Nat := 0x200
/-- MAX_ROM (R6, R295). -/
abbrev maxRom : Nat := 3584
/-- STACK_DEPTH (R6, R28). -/
abbrev stackDepth : Nat := 16
/-- FB_W (R6, R36). -/
abbrev fbWidth : Nat := 64
/-- FB_H (R6, R36). -/
abbrev fbHeight : Nat := 32

/-- FREE VALUE. RAND of the n-th CXNN for which the host has presented no byte (R180: "a free 8-bit input
of that step, under no law"; 93 U12 "any value"). It has no body: no proof can see a value of it. -/
opaque rand : Nat → Byte

/-- FREE VALUE. The n-th draw of P_FX0A_SELECT = `any` (R237: "keysel(KEY) is a draw: any k with KEY[k] = 1").
It is reduced modulo the number of pressed keys, so that every pressed key is a possible result and no
other one is. It has no body. -/
opaque keyDraw : Nat → Nat

/-- FREE VALUE. The encoding of the observation port `obs_*` while P_OBS_MAP is left OPEN (60_exceptions.md R275; 93
U20): what the port shows, of the values of all observable bits. It has no body. -/
opaque obsEncode : List Bool → List Bool

end Config

/-- P_ADDR_POLICY (R67, D3): an address above 0xFFF is reduced modulo 4096, or raises ADDRESS_RANGE. -/
inductive AddrPolicy where
  | wrap
  | fault
deriving DecidableEq, Repr

/-- P_RESERVED_WRITE (R68, D4): what MemWrite does below 0x200. -/
inductive ReservedWrite where
  | fault
  | ignore
  | write
deriving DecidableEq, Repr

/-- P_DECODE_0 (R95, D8): the field that selects in family 0. -/
inductive Decode0 where
  | lowByte
  | lowNibble
  | fullWord
deriving DecidableEq, Repr

/-- P_DECODE_E (R97, D9): the field that selects in family E. -/
inductive DecodeE where
  | lowByte
  | lowNibble
deriving DecidableEq, Repr

/-- P_DECODE_5_9 (R99, D10): whether a nonzero low digit is ignored in families 5 and 9. -/
inductive Decode59 where
  | ignore
  | requireZero
deriving DecidableEq, Repr

/-- P_OPERAND_ORDER (R173, D11): whether the second assignment of a flag-writing instruction reads the
state the first one left, or operands latched before either. -/
inductive OperandOrder where
  | sequential
  | latched
deriving DecidableEq, Repr

/-- P_DRAW_EDGE (R214, D13). -/
inductive DrawEdge where
  | wrap
  | clip
deriving DecidableEq, Repr

/-- P_KEY_INDEX (R236, D14). -/
inductive KeyIndex where
  | wrap
  | fault
deriving DecidableEq, Repr

/-- P_FX0A_SELECT (R237, D15). -/
inductive KeySelect where
  | lowest
  | any
deriving DecidableEq, Repr

/-- One bit the host may observe: a bit of a state element of 10_state.md or of a memory byte (60_exceptions.md R274).
Bit 0 is the least significant one (00_scope.md R7). -/
inductive ObsBit where
  /-- Bit `b` of V[x]. -/
  | v (x : Fin 16) (b : Fin 8)
  | i (b : Fin 16)
  | pc (b : Fin 16)
  | sp (b : Fin 5)
  /-- Bit `b` of STACK[k]. -/
  | stack (k b : Fin 16)
  | dt (b : Fin 8)
  | st (b : Fin 8)
  | key (k : Fin 16)
  /-- FB[x][y]. -/
  | fb (x : Fin 64) (y : Fin 32)
  | dirty
  | opc (b : Fin 16)
  | fault
  | fcause (b : Fin 3)
  | fpc (b : Fin 16)
  | loadErr
  /-- Bit `b` of M[a]. -/
  | mem (a : Fin 4096) (b : Fin 8)
deriving DecidableEq, Repr

/-- P_OBS_MAP (R6, D25; 60_exceptions.md R274, R275): which bit each wire of the output port `obs_*` carries. The spec
leaves it OPEN and gives no default (log entry 18). -/
inductive ObsMap where
  /-- The encoding is not fixed: the port shows `Config.obsEncode` of every observable bit. -/
  | unspecified
  /-- Wire n carries the n-th bit of the list. -/
  | wires (bits : List ObsBit)
deriving DecidableEq, Repr

/-- P_FONT (R63, R64): glyph k is the bytes 5k to 5k + 4. -/
abbrev Font := Vector Byte 80

/-- The standard font of R64, one glyph a line (log entry 2). -/
def standardGlyphs : List (List Byte) :=
  [[0xF0, 0x90, 0x90, 0x90, 0xF0],
   [0x20, 0x60, 0x20, 0x20, 0x70],
   [0xF0, 0x10, 0xF0, 0x80, 0xF0],
   [0xF0, 0x10, 0xF0, 0x10, 0xF0],
   [0x90, 0x90, 0xF0, 0x10, 0x10],
   [0xF0, 0x80, 0xF0, 0x10, 0xF0],
   [0xF0, 0x80, 0xF0, 0x90, 0xF0],
   [0xF0, 0x10, 0x20, 0x40, 0x40],
   [0xF0, 0x90, 0xF0, 0x90, 0xF0],
   [0xF0, 0x90, 0xF0, 0x10, 0xF0],
   [0xF0, 0x90, 0xF0, 0x90, 0x90],
   [0xE0, 0x90, 0xE0, 0x90, 0xE0],
   [0xF0, 0x80, 0x80, 0x80, 0xF0],
   [0xE0, 0x90, 0x90, 0x90, 0xE0],
   [0xF0, 0x80, 0xF0, 0x80, 0xF0],
   [0xF0, 0x80, 0xF0, 0x80, 0x80]]

/-- The 80 bytes of R64 in address order. -/
def standardFont : Font := ⟨standardGlyphs.flatten.toArray, rfl⟩

/-- The policy parameters of R6. They are fixed per instance: no instruction and no host operation
changes them (10_state.md R42). -/
structure Params where
  addrPolicy : AddrPolicy
  reservedWrite : ReservedWrite
  decode0 : Decode0
  decodeE : DecodeE
  decode59 : Decode59
  operandOrder : OperandOrder
  drawVfClear : Bool
  drawEdge : DrawEdge
  keyIndex : KeyIndex
  keySelect : KeySelect
  font : Font
  obsMap : ObsMap
deriving DecidableEq, Repr

/-- The default of every parameter, as the table of R6 gives it; P_OBS_MAP, which has none, is left open. -/
def Params.default : Params where
  addrPolicy := .wrap
  reservedWrite := .fault
  decode0 := .lowByte
  decodeE := .lowByte
  decode59 := .ignore
  operandOrder := .sequential
  drawVfClear := true
  drawEdge := .wrap
  keyIndex := .wrap
  keySelect := .lowest
  font := standardFont
  obsMap := .unspecified

end Sys2Proof
end

