-- ==== Sys2Proof/Syntax.lean ====
section
/-! DEFINITION. The 34 instructions of 30_encoding.md R101 as one inductive type, and the source lines of
the assembler syntax of R105 from which they are written. -/

namespace Sys2Proof

/-- The instructions of R101, in the order of the table. The no-op of R102 is not an instruction of the
table: the decoder answers it under its own name (`Decoded.noOp`). Operands hold exactly the values
their fields can encode (R92), so every term is an encodable instruction. -/
inductive Instr where
  /-- 00E0 -/
  | cls
  /-- 00EE -/
  | ret
  /-- 1NNN -/
  | jpAddr (nnn : Addr)
  /-- 2NNN -/
  | callAddr (nnn : Addr)
  /-- 3XNN -/
  | seVxByte (x : Reg) (nn : Byte)
  /-- 4XNN -/
  | sneVxByte (x : Reg) (nn : Byte)
  /-- 5XY0 -/
  | seVxVy (x y : Reg)
  /-- 6XNN -/
  | ldVxByte (x : Reg) (nn : Byte)
  /-- 7XNN -/
  | addVxByte (x : Reg) (nn : Byte)
  /-- 8XY0 -/
  | ldVxVy (x y : Reg)
  /-- 8XY1 -/
  | orVxVy (x y : Reg)
  /-- 8XY2 -/
  | andVxVy (x y : Reg)
  /-- 8XY3 -/
  | xorVxVy (x y : Reg)
  /-- 8XY4 -/
  | addVxVy (x y : Reg)
  /-- 8XY5 -/
  | subVxVy (x y : Reg)
  /-- 8XY6 -/
  | shrVxVy (x y : Reg)
  /-- 8XY7 -/
  | subnVxVy (x y : Reg)
  /-- 8XYE -/
  | shlVxVy (x y : Reg)
  /-- 9XY0 -/
  | sneVxVy (x y : Reg)
  /-- ANNN -/
  | ldIAddr (nnn : Addr)
  /-- BNNN -/
  | jpV0Addr (nnn : Addr)
  /-- CXNN -/
  | rndVxByte (x : Reg) (nn : Byte)
  /-- DXYN -/
  | drwVxVyNibble (x y : Reg) (n : Nibble)
  /-- EX9E -/
  | skpVx (x : Reg)
  /-- EXA1 -/
  | sknpVx (x : Reg)
  /-- FX07 -/
  | ldVxDT (x : Reg)
  /-- FX0A -/
  | ldVxK (x : Reg)
  /-- FX15 -/
  | ldDTVx (x : Reg)
  /-- FX18 -/
  | ldSTVx (x : Reg)
  /-- FX1E -/
  | addIVx (x : Reg)
  /-- FX29 -/
  | ldFVx (x : Reg)
  /-- FX33 -/
  | ldBVx (x : Reg)
  /-- FX55 -/
  | ldMemVx (x : Reg)
  /-- FX65 -/
  | ldVxMem (x : Reg)
deriving DecidableEq, Repr

/-- The mnemonic words of R101, and the directive `.word` of R105 and R106. -/
inductive Mnemonic where
  | cls | ret | jp | call | se | sne | ld | add | or | and | xor | sub | shr | subn | shl | rnd | drw
  | skp | sknp | word
deriving DecidableEq, Repr

/-- The operand forms of R105 as a programmer writes them. A number is any natural number here; whether it
fits its field is `WellFormed`'s question. -/
inductive Operand where
  /-- `Vx` or `Vy`; only 0 to 15 name a register. -/
  | v (n : Nat)
  /-- `byte`, `addr`, `nibble`, or the word of a `.word` -/
  | num (n : Nat)
  /-- The fixed operands `I`, `DT`, `ST`, `K`, `F` and `B`. -/
  | i | dt | st | key | font | bcd
  /-- `[I]` -/
  | memI
deriving DecidableEq, Repr

/-- One line of assembler source (R105, R106). -/
structure SourceLine where
  op : Mnemonic
  args : List Operand
deriving DecidableEq, Repr

end Sys2Proof
end

