-- ==== Sys2Proof/WellFormed.lean ====
section
/-! DEFINITION. Which source lines are instructions: the operand shape of each mnemonic (30_encoding.md R101)
and the range of each operand. "An assembler refuses an operand out of its range, and does not
truncate it" (R105). -/

namespace Sys2Proof

/-- A register operand names V0 to VF (R105). -/
def Operand.asReg : Operand → Option Reg
  | .v n => if h : n < 16 then some ⟨n, h⟩ else none
  | _ => none

/-- A `byte` is 0 to 255 (R105). -/
def Operand.asByte : Operand → Option Byte
  | .num n => if n < 256 then some (BitVec.ofNat 8 n) else none
  | _ => none

/-- An `addr` is 0x000 to 0xFFF (R105). -/
def Operand.asAddr : Operand → Option Addr
  | .num n => if n < 4096 then some (BitVec.ofNat 12 n) else none
  | _ => none

/-- A `nibble` is 0 to 15 (R105). -/
def Operand.asNibble : Operand → Option Nibble
  | .num n => if n < 16 then some (BitVec.ofNat 4 n) else none
  | _ => none

/-- The word of a `.word` is 0x0000 to 0xFFFF (R105). -/
def Operand.asWord : Operand → Option Word
  | .num n => if n < 65536 then some (BitVec.ofNat 16 n) else none
  | _ => none

/-- The instructions of the shape `op Vx, Vy`. -/
def Operand.regReg (f : Reg → Reg → Instr) (a b : Operand) : Option Instr :=
  match a.asReg, b.asReg with
  | some x, some y => some (f x y)
  | _, _ => none

/-- `op Vx, byte` or, failing that, `op Vx, Vy`: the last operand's form selects the instruction. -/
def Operand.regByteOrReg (f : Reg → Byte → Instr) (g : Reg → Reg → Instr) (a b : Operand) : Option Instr :=
  match a.asReg, b.asByte with
  | some x, some nn => some (f x nn)
  | _, _ => Operand.regReg g a b

/-- The LD forms of R101: the fixed operands `I`, `DT`, `ST`, `K`, `F`, `B` and `[I]` select the
instruction and encode nothing (R105). -/
def SourceLine.ldForm : List Operand → Option Instr
  | [.i, a] => a.asAddr.map .ldIAddr
  | [.dt, a] => a.asReg.map .ldDTVx
  | [.st, a] => a.asReg.map .ldSTVx
  | [.font, a] => a.asReg.map .ldFVx
  | [.bcd, a] => a.asReg.map .ldBVx
  | [.memI, a] => a.asReg.map .ldMemVx
  | [a, .dt] => a.asReg.map .ldVxDT
  | [a, .key] => a.asReg.map .ldVxK
  | [a, .memI] => a.asReg.map .ldVxMem
  | [a, b] => Operand.regByteOrReg .ldVxByte .ldVxVy a b
  | _ => none

/-- The ADD forms of R101. -/
def SourceLine.addForm : List Operand → Option Instr
  | [.i, a] => a.asReg.map .addIVx
  | [a, b] => Operand.regByteOrReg .addVxByte .addVxVy a b
  | _ => none

/-- The JP forms of R101: in `JP V0, addr` the register is spelled literally (R105). -/
def SourceLine.jpForm : List Operand → Option Instr
  | [a] => a.asAddr.map .jpAddr
  | [.v 0, a] => a.asAddr.map .jpV0Addr
  | _ => none

/-- The DRW form of R101. -/
def SourceLine.drwForm : List Operand → Option Instr
  | [a, b, c] =>
    match a.asReg, b.asReg, c.asNibble with
    | some x, some y, some n => some (.drwVxVyNibble x y n)
    | _, _, _ => none
  | _ => none

/-- A line of exactly two operands read by `f`. -/
def SourceLine.twoArgs (f : Operand → Operand → Option Instr) : List Operand → Option Instr
  | [a, b] => f a b
  | _ => none

/-- A line of exactly one operand read by `f`. -/
def SourceLine.oneArg (f : Operand → Option Instr) : List Operand → Option Instr
  | [a] => f a
  | _ => none

/-- A line of no operand. -/
def SourceLine.noArg (i : Instr) : List Operand → Option Instr
  | [] => some i
  | _ => none

/-- The instruction a source line names, if its operands have the shape of one of R101's patterns and lie in
their ranges. `.word` names none. -/
def SourceLine.instr? (l : SourceLine) : Option Instr :=
  match l.op with
  | .cls => SourceLine.noArg .cls l.args
  | .ret => SourceLine.noArg .ret l.args
  | .jp => SourceLine.jpForm l.args
  | .call => SourceLine.oneArg (fun a => a.asAddr.map .callAddr) l.args
  | .se => SourceLine.twoArgs (Operand.regByteOrReg .seVxByte .seVxVy) l.args
  | .sne => SourceLine.twoArgs (Operand.regByteOrReg .sneVxByte .sneVxVy) l.args
  | .ld => SourceLine.ldForm l.args
  | .add => SourceLine.addForm l.args
  | .or => SourceLine.twoArgs (Operand.regReg .orVxVy) l.args
  | .and => SourceLine.twoArgs (Operand.regReg .andVxVy) l.args
  | .xor => SourceLine.twoArgs (Operand.regReg .xorVxVy) l.args
  | .sub => SourceLine.twoArgs (Operand.regReg .subVxVy) l.args
  | .shr => SourceLine.twoArgs (Operand.regReg .shrVxVy) l.args
  | .subn => SourceLine.twoArgs (Operand.regReg .subnVxVy) l.args
  | .shl => SourceLine.twoArgs (Operand.regReg .shlVxVy) l.args
  | .rnd => SourceLine.twoArgs
      (fun a b => match a.asReg, b.asByte with
        | some x, some nn => some (.rndVxByte x nn)
        | _, _ => none) l.args
  | .drw => SourceLine.drwForm l.args
  | .skp => SourceLine.oneArg (fun a => a.asReg.map .skpVx) l.args
  | .sknp => SourceLine.oneArg (fun a => a.asReg.map .sknpVx) l.args
  | .word => none

/-- The word of a `.word` line (R105). -/
def SourceLine.literal? (l : SourceLine) : Option Word :=
  match l.op, l.args with
  | .word, [a] => a.asWord
  | _, _ => none

/-- A source line is well-formed when it is an instruction with every operand in range, or a `.word` in
range. An `Instr` itself needs no such check: its operand types hold exactly the encodable values. -/
def SourceLine.wellFormed (l : SourceLine) : Bool := l.instr?.isSome || l.literal?.isSome

end Sys2Proof
end

