-- ==== Sys2Proof/Decode.lean ====
section
/-! DEFINITION. The decoder of 30_encoding.md (R91 to R103), total on every word under every decode
parameter, the encoder written from the same patterns, the opcode map of R101 as data, and the
assembler of R105. -/

namespace Sys2Proof

/-! ### The word and its fields (R91) -/

/-- The family nibble, bits 15 to 12. -/
def fieldFamily (w : Word) : Nibble := w.extractLsb' 12 4

/-- X, bits 11 to 8, as a register index. -/
def fieldX (w : Word) : Reg := (w.extractLsb' 8 4).toFin

/-- Y, bits 7 to 4, as a register index. -/
def fieldY (w : Word) : Reg := (w.extractLsb' 4 4).toFin

/-- N, bits 3 to 0. -/
def fieldN (w : Word) : Nibble := w.extractLsb' 0 4

/-- NN, bits 7 to 0. -/
def fieldNN (w : Word) : Byte := w.extractLsb' 0 8

/-- NNN, bits 11 to 0. -/
def fieldNNN (w : Word) : Addr := w.extractLsb' 0 12

/-! ### Decode (R93 to R102) -/

/-- What a word decodes to: one of the 34 instructions, or the no-op (R93). The no-op is the name under
which every word outside R101 is answered (R102, R103): no word is illegal. -/
inductive Decoded where
  | instr (i : Instr)
  | noOp
deriving DecidableEq, Repr

/-- Family 0 (R95). -/
def decodeFamily0 (p : Params) (w : Word) : Decoded :=
  match p.decode0 with
  | .lowByte =>
    if fieldNN w = 0xE0#8 then .instr .cls
    else if fieldNN w = 0xEE#8 then .instr .ret
    else .noOp
  | .lowNibble =>
    if fieldN w = 0x0#4 then .instr .cls
    else if fieldN w = 0xE#4 then .instr .ret
    else .noOp
  | .fullWord =>
    if w = 0x00E0#16 then .instr .cls
    else if w = 0x00EE#16 then .instr .ret
    else .noOp

/-- Families 5 and 9: the given two-register skip, unless P_DECODE_5_9 asks for a zero low digit (R99). -/
def decodeFamily59 (p : Params) (f : Reg → Reg → Instr) (w : Word) : Decoded :=
  match p.decode59 with
  | .ignore => .instr (f (fieldX w) (fieldY w))
  | .requireZero => if fieldN w = 0x0#4 then .instr (f (fieldX w) (fieldY w)) else .noOp

/-- Family 8 selects on N (R96). -/
def decodeFamily8 (w : Word) : Decoded :=
  match fieldN w with
  | 0x0#4 => .instr (.ldVxVy (fieldX w) (fieldY w))
  | 0x1#4 => .instr (.orVxVy (fieldX w) (fieldY w))
  | 0x2#4 => .instr (.andVxVy (fieldX w) (fieldY w))
  | 0x3#4 => .instr (.xorVxVy (fieldX w) (fieldY w))
  | 0x4#4 => .instr (.addVxVy (fieldX w) (fieldY w))
  | 0x5#4 => .instr (.subVxVy (fieldX w) (fieldY w))
  | 0x6#4 => .instr (.shrVxVy (fieldX w) (fieldY w))
  | 0x7#4 => .instr (.subnVxVy (fieldX w) (fieldY w))
  | 0xE#4 => .instr (.shlVxVy (fieldX w) (fieldY w))
  | _ => .noOp

/-- Family E (R97). -/
def decodeFamilyE (p : Params) (w : Word) : Decoded :=
  match p.decodeE with
  | .lowByte =>
    if fieldNN w = 0x9E#8 then .instr (.skpVx (fieldX w))
    else if fieldNN w = 0xA1#8 then .instr (.sknpVx (fieldX w))
    else .noOp
  | .lowNibble =>
    if fieldN w = 0xE#4 then .instr (.skpVx (fieldX w))
    else if fieldN w = 0x1#4 then .instr (.sknpVx (fieldX w))
    else .noOp

/-- Family F selects on NN (R98). -/
def decodeFamilyF (w : Word) : Decoded :=
  match fieldNN w with
  | 0x07#8 => .instr (.ldVxDT (fieldX w))
  | 0x0A#8 => .instr (.ldVxK (fieldX w))
  | 0x15#8 => .instr (.ldDTVx (fieldX w))
  | 0x18#8 => .instr (.ldSTVx (fieldX w))
  | 0x1E#8 => .instr (.addIVx (fieldX w))
  | 0x29#8 => .instr (.ldFVx (fieldX w))
  | 0x33#8 => .instr (.ldBVx (fieldX w))
  | 0x55#8 => .instr (.ldMemVx (fieldX w))
  | 0x65#8 => .instr (.ldVxMem (fieldX w))
  | _ => .noOp

/-- The decoder: primary dispatch on the family nibble (R94), secondary dispatch by R95 to R99; the other
families hold one instruction each (R100). The last arm is family 0xF, the only nibble left. -/
def decode (p : Params) (w : Word) : Decoded :=
  match fieldFamily w with
  | 0x0#4 => decodeFamily0 p w
  | 0x1#4 => .instr (.jpAddr (fieldNNN w))
  | 0x2#4 => .instr (.callAddr (fieldNNN w))
  | 0x3#4 => .instr (.seVxByte (fieldX w) (fieldNN w))
  | 0x4#4 => .instr (.sneVxByte (fieldX w) (fieldNN w))
  | 0x5#4 => decodeFamily59 p .seVxVy w
  | 0x6#4 => .instr (.ldVxByte (fieldX w) (fieldNN w))
  | 0x7#4 => .instr (.addVxByte (fieldX w) (fieldNN w))
  | 0x8#4 => decodeFamily8 w
  | 0x9#4 => decodeFamily59 p .sneVxVy w
  | 0xA#4 => .instr (.ldIAddr (fieldNNN w))
  | 0xB#4 => .instr (.jpV0Addr (fieldNNN w))
  | 0xC#4 => .instr (.rndVxByte (fieldX w) (fieldNN w))
  | 0xD#4 => .instr (.drwVxVyNibble (fieldX w) (fieldY w) (fieldN w))
  | 0xE#4 => decodeFamilyE p w
  | _ => decodeFamilyF w

/-- The two bytes of an instruction as they stand in memory, the first at the lower address (R90;
20_memory.md R66). -/
def decodeBytes (p : Params) (hi lo : Byte) : Decoded := decode p (wordOfBytes hi lo)

/-- The instruction the decoder reads from a word numbered as spec/opcode_table.json numbers it: one 16-bit
word, stored high byte first. The decode parameters have their defaults (R101). -/
def decodeTableWord (nbits w : Nat) : Option Instr :=
  let word : Word := BitVec.ofNat 16 (w % 2 ^ nbits)
  match decodeBytes Params.default (highByte word) (lowByte word) with
  | .instr i => some i
  | .noOp => none

/-! ### Encode (R91, R101) -/

/-- The layout `family NNN`. -/
def formNNN (f : Nibble) (nnn : Addr) : Word := f ++ nnn

/-- The layout `family X NN`. -/
def formXNN (f : Nibble) (x : Reg) (nn : Byte) : Word := f ++ (BitVec.ofFin x : Nibble) ++ nn

/-- The layout `family X Y N`. -/
def formXYN (f : Nibble) (x y : Reg) (n : Nibble) : Word :=
  f ++ (BitVec.ofFin x : Nibble) ++ (BitVec.ofFin y : Nibble) ++ n

/-- The canonical word of an instruction: the digits of its pattern in R101. -/
def encode : Instr → Word
  | .cls => 0x00E0#16
  | .ret => 0x00EE#16
  | .jpAddr nnn => formNNN 0x1#4 nnn
  | .callAddr nnn => formNNN 0x2#4 nnn
  | .seVxByte x nn => formXNN 0x3#4 x nn
  | .sneVxByte x nn => formXNN 0x4#4 x nn
  | .seVxVy x y => formXYN 0x5#4 x y 0x0#4
  | .ldVxByte x nn => formXNN 0x6#4 x nn
  | .addVxByte x nn => formXNN 0x7#4 x nn
  | .ldVxVy x y => formXYN 0x8#4 x y 0x0#4
  | .orVxVy x y => formXYN 0x8#4 x y 0x1#4
  | .andVxVy x y => formXYN 0x8#4 x y 0x2#4
  | .xorVxVy x y => formXYN 0x8#4 x y 0x3#4
  | .addVxVy x y => formXYN 0x8#4 x y 0x4#4
  | .subVxVy x y => formXYN 0x8#4 x y 0x5#4
  | .shrVxVy x y => formXYN 0x8#4 x y 0x6#4
  | .subnVxVy x y => formXYN 0x8#4 x y 0x7#4
  | .shlVxVy x y => formXYN 0x8#4 x y 0xE#4
  | .sneVxVy x y => formXYN 0x9#4 x y 0x0#4
  | .ldIAddr nnn => formNNN 0xA#4 nnn
  | .jpV0Addr nnn => formNNN 0xB#4 nnn
  | .rndVxByte x nn => formXNN 0xC#4 x nn
  | .drwVxVyNibble x y n => formXYN 0xD#4 x y n
  | .skpVx x => formXNN 0xE#4 x 0x9E#8
  | .sknpVx x => formXNN 0xE#4 x 0xA1#8
  | .ldVxDT x => formXNN 0xF#4 x 0x07#8
  | .ldVxK x => formXNN 0xF#4 x 0x0A#8
  | .ldDTVx x => formXNN 0xF#4 x 0x15#8
  | .ldSTVx x => formXNN 0xF#4 x 0x18#8
  | .addIVx x => formXNN 0xF#4 x 0x1E#8
  | .ldFVx x => formXNN 0xF#4 x 0x29#8
  | .ldBVx x => formXNN 0xF#4 x 0x33#8
  | .ldMemVx x => formXNN 0xF#4 x 0x55#8
  | .ldVxMem x => formXNN 0xF#4 x 0x65#8

/-! ### The opcode map of R101 as data -/

/-- One row of R101: a word `w` is the row's instruction when `w &&& mask = value`, with its operands taken
from the fields of R91. -/
structure OpcodeRow where
  mnemonic : String
  value : Word
  mask : Word
  build : Word → Instr

/-- Rows 1 to 9 of R101. -/
def opcodeRowsA : List OpcodeRow :=
  [⟨"CLS", 0x00E0, 0xF0FF, fun _ => .cls⟩,
   ⟨"RET", 0x00EE, 0xF0FF, fun _ => .ret⟩,
   ⟨"JP_addr", 0x1000, 0xF000, fun w => .jpAddr (fieldNNN w)⟩,
   ⟨"CALL_addr", 0x2000, 0xF000, fun w => .callAddr (fieldNNN w)⟩,
   ⟨"SE_Vx__byte", 0x3000, 0xF000, fun w => .seVxByte (fieldX w) (fieldNN w)⟩,
   ⟨"SNE_Vx__byte", 0x4000, 0xF000, fun w => .sneVxByte (fieldX w) (fieldNN w)⟩,
   ⟨"SE_Vx__Vy", 0x5000, 0xF000, fun w => .seVxVy (fieldX w) (fieldY w)⟩,
   ⟨"LD_Vx__byte", 0x6000, 0xF000, fun w => .ldVxByte (fieldX w) (fieldNN w)⟩,
   ⟨"ADD_Vx__byte", 0x7000, 0xF000, fun w => .addVxByte (fieldX w) (fieldNN w)⟩]

/-- Rows 10 to 18 of R101: family 8. -/
def opcodeRowsB : List OpcodeRow :=
  [⟨"LD_Vx__Vy", 0x8000, 0xF00F, fun w => .ldVxVy (fieldX w) (fieldY w)⟩,
   ⟨"OR_Vx__Vy", 0x8001, 0xF00F, fun w => .orVxVy (fieldX w) (fieldY w)⟩,
   ⟨"AND_Vx__Vy", 0x8002, 0xF00F, fun w => .andVxVy (fieldX w) (fieldY w)⟩,
   ⟨"XOR_Vx__Vy", 0x8003, 0xF00F, fun w => .xorVxVy (fieldX w) (fieldY w)⟩,
   ⟨"ADD_Vx__Vy", 0x8004, 0xF00F, fun w => .addVxVy (fieldX w) (fieldY w)⟩,
   ⟨"SUB_Vx__Vy", 0x8005, 0xF00F, fun w => .subVxVy (fieldX w) (fieldY w)⟩,
   ⟨"SHR_Vx__Vy", 0x8006, 0xF00F, fun w => .shrVxVy (fieldX w) (fieldY w)⟩,
   ⟨"SUBN_Vx__Vy", 0x8007, 0xF00F, fun w => .subnVxVy (fieldX w) (fieldY w)⟩,
   ⟨"SHL_Vx__Vy", 0x800E, 0xF00F, fun w => .shlVxVy (fieldX w) (fieldY w)⟩]

/-- Rows 19 to 25 of R101. -/
def opcodeRowsC : List OpcodeRow :=
  [⟨"SNE_Vx__Vy", 0x9000, 0xF000, fun w => .sneVxVy (fieldX w) (fieldY w)⟩,
   ⟨"LD_I__addr", 0xA000, 0xF000, fun w => .ldIAddr (fieldNNN w)⟩,
   ⟨"JP_V0__addr", 0xB000, 0xF000, fun w => .jpV0Addr (fieldNNN w)⟩,
   ⟨"RND_Vx__byte", 0xC000, 0xF000, fun w => .rndVxByte (fieldX w) (fieldNN w)⟩,
   ⟨"DRW_Vx__Vy__nibble", 0xD000, 0xF000, fun w => .drwVxVyNibble (fieldX w) (fieldY w) (fieldN w)⟩,
   ⟨"SKP_Vx", 0xE09E, 0xF0FF, fun w => .skpVx (fieldX w)⟩,
   ⟨"SKNP_Vx", 0xE0A1, 0xF0FF, fun w => .sknpVx (fieldX w)⟩]

/-- Rows 26 to 34 of R101: family F. -/
def opcodeRowsD : List OpcodeRow :=
  [⟨"LD_Vx__DT", 0xF007, 0xF0FF, fun w => .ldVxDT (fieldX w)⟩,
   ⟨"LD_Vx__K", 0xF00A, 0xF0FF, fun w => .ldVxK (fieldX w)⟩,
   ⟨"LD_DT__Vx", 0xF015, 0xF0FF, fun w => .ldDTVx (fieldX w)⟩,
   ⟨"LD_ST__Vx", 0xF018, 0xF0FF, fun w => .ldSTVx (fieldX w)⟩,
   ⟨"ADD_I__Vx", 0xF01E, 0xF0FF, fun w => .addIVx (fieldX w)⟩,
   ⟨"LD_F__Vx", 0xF029, 0xF0FF, fun w => .ldFVx (fieldX w)⟩,
   ⟨"LD_B__Vx", 0xF033, 0xF0FF, fun w => .ldBVx (fieldX w)⟩,
   ⟨"LD__I___Vx", 0xF055, 0xF0FF, fun w => .ldMemVx (fieldX w)⟩,
   ⟨"LD_Vx___I", 0xF065, 0xF0FF, fun w => .ldVxMem (fieldX w)⟩]

/-- The 34 rows of R101 in the source's order, for the default decode parameters. -/
def opcodeTable : List OpcodeRow := opcodeRowsA ++ opcodeRowsB ++ opcodeRowsC ++ opcodeRowsD

/-- A word matches a row (R101). -/
def OpcodeRow.matchesWord (r : OpcodeRow) (w : Word) : Bool := w &&& r.mask == r.value

/-! ### The assembler (R105, R106) -/

/-- The operands of an instruction in the spelling of R101. -/
def Instr.toSource : Instr → SourceLine
  | .cls => ⟨.cls, []⟩
  | .ret => ⟨.ret, []⟩
  | .jpAddr nnn => ⟨.jp, [.num nnn.toNat]⟩
  | .callAddr nnn => ⟨.call, [.num nnn.toNat]⟩
  | .seVxByte x nn => ⟨.se, [.v x, .num nn.toNat]⟩
  | .sneVxByte x nn => ⟨.sne, [.v x, .num nn.toNat]⟩
  | .seVxVy x y => ⟨.se, [.v x, .v y]⟩
  | .ldVxByte x nn => ⟨.ld, [.v x, .num nn.toNat]⟩
  | .addVxByte x nn => ⟨.add, [.v x, .num nn.toNat]⟩
  | .ldVxVy x y => ⟨.ld, [.v x, .v y]⟩
  | .orVxVy x y => ⟨.or, [.v x, .v y]⟩
  | .andVxVy x y => ⟨.and, [.v x, .v y]⟩
  | .xorVxVy x y => ⟨.xor, [.v x, .v y]⟩
  | .addVxVy x y => ⟨.add, [.v x, .v y]⟩
  | .subVxVy x y => ⟨.sub, [.v x, .v y]⟩
  | .shrVxVy x y => ⟨.shr, [.v x, .v y]⟩
  | .subnVxVy x y => ⟨.subn, [.v x, .v y]⟩
  | .shlVxVy x y => ⟨.shl, [.v x, .v y]⟩
  | .sneVxVy x y => ⟨.sne, [.v x, .v y]⟩
  | .ldIAddr nnn => ⟨.ld, [.i, .num nnn.toNat]⟩
  | .jpV0Addr nnn => ⟨.jp, [.v 0, .num nnn.toNat]⟩
  | .rndVxByte x nn => ⟨.rnd, [.v x, .num nn.toNat]⟩
  | .drwVxVyNibble x y n => ⟨.drw, [.v x, .v y, .num n.toNat]⟩
  | .skpVx x => ⟨.skp, [.v x]⟩
  | .sknpVx x => ⟨.sknp, [.v x]⟩
  | .ldVxDT x => ⟨.ld, [.v x, .dt]⟩
  | .ldVxK x => ⟨.ld, [.v x, .key]⟩
  | .ldDTVx x => ⟨.ld, [.dt, .v x]⟩
  | .ldSTVx x => ⟨.ld, [.st, .v x]⟩
  | .addIVx x => ⟨.add, [.i, .v x]⟩
  | .ldFVx x => ⟨.ld, [.font, .v x]⟩
  | .ldBVx x => ⟨.ld, [.bcd, .v x]⟩
  | .ldMemVx x => ⟨.ld, [.memI, .v x]⟩
  | .ldVxMem x => ⟨.ld, [.v x, .memI]⟩

/-- The word an assembler emits for a source line; nothing for a line it refuses (R105). Every line gives
exactly one word: there are no pseudo-instructions (R106). -/
def assemble (l : SourceLine) : Option Word :=
  match l.instr? with
  | some i => some (encode i)
  | none => l.literal?

/-- The line that stands for a word under the given decode parameters: its instruction's, or a `.word`
(R105: "A word that is the no-op is written `.word 0xHHHH`"). -/
def disassemble (p : Params) (w : Word) : SourceLine :=
  match decode p w with
  | .instr i => i.toSource
  | .noOp => ⟨.word, [.num w.toNat]⟩

end Sys2Proof
end

