-- ==== Sys2Proof/Machine/State.lean ====
section
/-! DEFINITION. The state of the CORE (10_state.md), the reasons a step can stop, and the state after reset
(70_reset_and_hazards.md R290). -/

namespace Sys2Proof.Machine

/-- The fault causes of 60_exceptions.md R251. They are the spec's own `raise Fault(cause)`: the operation that meets the
condition raises the cause, and the step TAKES it, as the next state of R252 (`State.enterFault`). No
meaning and no step answers `Outcome.fault`, so none of these stops the model. -/
inductive Fault where
  /-- Raised by 2NNN at SP = 16 (41_control_flow.md R142). Safe: it is the effect the spec gives. -/
  | stackOverflow
  /-- Raised by 00EE at SP = 0 (41_control_flow.md R140). Safe: it is the effect the spec gives. -/
  | stackUnderflow
  /-- Raised by FX33 and FX55 writing below 0x200 under P_RESERVED_WRITE = `fault` (20_memory.md R68).
  Safe: it is the effect the spec gives. -/
  | reservedWrite
  /-- Raised by the fetch, DXYN, FX33, FX55 and FX65 above 0xFFF under P_ADDR_POLICY = `fault`
  (20_memory.md R67). Safe: it is the effect the spec gives. -/
  | addressRange
  /-- Raised by EX9E and EXA1 with V[X] above 15 under P_KEY_INDEX = `fault` (45_timers_keys.md R236).
  Safe: it is the effect the spec gives. -/
  | keyRange
deriving DecidableEq, Repr

/-- The operations the model gives no meaning to. -/
inductive Refusal where
  /-- An instruction whose meaning is not modelled yet. No arm of `exec` is left with it. -/
  | notModelled (mnemonic : String)
  /-- Raised by `step` and by every host operation but Reset and Load before the first of them after power-on
  (10_state.md R44: "it refuses it, and does not pick a value"), and by a read of the output ports then (log
  entry 21). Safe. -/
  | beforeFirstReset
  /-- Raised by the port model for a request or a read presented while `busy` = 1 (60_exceptions.md R275,
  70_reset_and_hazards.md R308; 93 U23). Safe. -/
  | portBusy
  /-- Raised by the port model for a `load_byte_valid` or `load_abort` that belongs to no Load (log entry 11).
  Safe. -/
  | portNoLoad
deriving DecidableEq, Repr

/-- The framebuffer: 32 rows of 64 pixels, `fb[y][x]` being the spec's FB[x][y] (R36). -/
abbrev Frame := Vector (Vector Bool 64) 32

/-- Everything the spec gives the CORE (10_state.md §12), its parameters (00_scope.md R6), and three fields of
the model's own: `randIn`, `draws` and `started`. -/
structure State where
  /-- V0 to VF (R20). -/
  v : Vector Byte 16
  /-- I (R24). -/
  i : Word
  /-- PC (R26). -/
  pc : Word
  /-- SP, the number of return addresses held, 0 to 16 (R28; log entry 6). -/
  sp : Fin 17
  /-- STACK[0] to STACK[15] (R29). -/
  stack : Vector Word 16
  /-- DT (R32). -/
  dt : Byte
  /-- ST (R32). -/
  st : Byte
  /-- KEY[0] to KEY[15], true when pressed (R34). -/
  key : Vector Bool 16
  /-- FB (R36). -/
  fb : Frame
  /-- DIRTY (R37). -/
  dirty : Bool
  /-- OPC (R38). -/
  opc : Word
  /-- FAULT (R39). -/
  fault : Bool
  /-- FCAUSE (R39). -/
  fcause : BitVec 3
  /-- FPC (R39). -/
  fpc : Word
  /-- LOAD_ERR (R45). -/
  loadErr : Bool
  /-- The memory array (R41; 20_memory.md R60): the bytes that differ from the reset contents, addresses
  rising (log entry 12). -/
  mem : List Host.Cell
  /-- The policy parameters of this instance (00_scope.md R6; log entry 1). -/
  params : Params
  /-- RAND as the host presents it for the next Step, if it does (R40; 42_alu.md R180; log entry 3). -/
  randIn : Option Byte
  /-- The number of free values drawn so far (log entry 5). -/
  draws : Nat
  /-- A Reset or Load has happened since power-on (R44; log entry 8). -/
  started : Bool
deriving DecidableEq, Repr

/-- The state Reset leaves (70_reset_and_hazards.md R290) on an instance with parameters `p`, when `n` free values have
been drawn before it. Memory lists nothing: every byte reads as its reset contents (R290, R292;
20_memory.md R63 to R65). -/
def State.resetOf (p : Params) (n : Nat) : State where
  v := Vector.replicate 16 0
  i := 0x0000
  pc := 0x0200
  sp := 0
  stack := Vector.replicate 16 0
  dt := 0
  st := 0
  key := Vector.replicate 16 false
  fb := Vector.replicate 32 (Vector.replicate 64 false)
  dirty := false
  opc := 0x0000
  fault := false
  fcause := 0
  fpc := 0x0000
  loadErr := false
  mem := []
  params := p
  randIn := none
  draws := n
  started := true

/-- The machine right after reset, with the default parameters of 00_scope.md R6. -/
def State.reset : State := State.resetOf Params.default 0

end Sys2Proof.Machine
end

