-- ==== Sys2Proof/Machine/Ops.lean ====
section
/-! DEFINITION. The named operations over memory, registers, stack, framebuffer and fault status that the meanings are
written with: MemRead and MemWrite under the address and write policies (20_memory.md R67, R68), the
fetch and advance of a step (40_step_cycle.md R122, R123), the skip (R125), and taking a fault
(60_exceptions.md R252), each once. -/

namespace Sys2Proof.Machine

/-! ### The memory array -/

/-- What an address that memory does not list reads as: its reset contents, the font at 0x000 to 0x04F and 0
above (20_memory.md R63, R65). -/
def resetByte (f : Font) (a : Nat) : Byte := if h : a < 80 then f[a] else 0

/-- The byte at a physical address. -/
def Memory.get (f : Font) : List Host.Cell → Nat → Byte
  | [], a => resetByte f a
  | (b, w) :: m, a => if a = b then w else Memory.get f m a

/-- Memory with one byte written. Writing the reset contents removes the entry, so equal memories are equal
lists. -/
def Memory.set (f : Font) : List Host.Cell → Nat → Byte → List Host.Cell
  | [], a, x => if x = resetByte f a then [] else [(a, x)]
  | (b, w) :: m, a, x =>
    if a < b then (if x = resetByte f a then (b, w) :: m else (a, x) :: (b, w) :: m)
    else if a = b then (if x = resetByte f a then m else (a, x) :: m)
    else (b, w) :: Memory.set f m a x

/-- The canonical form: addresses strictly rising, all of them in 0x000 to 0xFFF, and no entry equal to what an unlisted
address reads as. -/
abbrev Memory.wf (f : Font) (m : List Host.Cell) : Prop :=
  m.Pairwise (fun c d => c.1 < d.1) ∧ ∀ c ∈ m, c.1 < 4096 ∧ c.2 ≠ resetByte f c.1

/-- M[a], the byte at physical address `a`. -/
def State.byteAt (s : State) (a : Nat) : Byte := Memory.get s.params.font s.mem a

/-- M[a] <- x, with no policy: the path of Load (70_reset_and_hazards.md R294) and the last act of MemWrite. -/
def State.setByte (s : State) (a : Nat) (x : Byte) : State :=
  { s with mem := Memory.set s.params.font s.mem a x }

/-- `bytes[n]` at `a + n` for every n, with no policy (R294). -/
def State.setBytes (s : State) (a : Nat) : List Byte → State
  | [] => s
  | x :: xs => (s.setByte a x).setBytes (a + 1) xs

/-! ### Registers and the other single elements -/

/-- V[x] (10_state.md R20). -/
def State.reg (s : State) (x : Reg) : Byte := s.v[x]

/-- V[x] <- b. -/
def State.setReg (s : State) (x : Reg) (b : Byte) : State := { s with v := s.v.set x b }

/-- V[k] <- bs[k] for every k below the length of `bs`; the other registers keep their values. -/
def State.setRegs (s : State) (bs : List Byte) : State :=
  { s with v := Vector.ofFn fun k : Fin 16 => bs.getD k s.v[k] }

/-- V[0], …, V[x], in order (43_memory_index.md R194). -/
def State.regsUpTo (s : State) (x : Reg) : List Byte := s.v.toList.take (x.val + 1)

/-- I <- a (10_state.md R25). -/
def State.setI (s : State) (a : Word) : State := { s with i := a }

/-- PC <- a (10_state.md R27). -/
def State.setPc (s : State) (a : Word) : State := { s with pc := a }

/-- DT <- b. -/
def State.setDt (s : State) (b : Byte) : State := { s with dt := b }

/-- ST <- b. -/
def State.setSt (s : State) (b : Byte) : State := { s with st := b }

/-- FB <- f. -/
def State.setFb (s : State) (f : Frame) : State := { s with fb := f }

/-- DIRTY <- d. -/
def State.setDirty (s : State) (d : Bool) : State := { s with dirty := d }

/-- KEY[k] (10_state.md R34). -/
def State.keyAt (s : State) (k : Fin 16) : Bool := s.key[k]

/-! ### The framebuffer -/

/-- FB[x][y] of a framebuffer. -/
def Frame.pixel (f : Frame) (x : Fin 64) (y : Fin 32) : Bool := f[y][x]

/-- FB[x][y] <- FB[x][y] ^ 1. -/
def Frame.flip (f : Frame) (x : Fin 64) (y : Fin 32) : Frame := f.set y (f[y].set x (!f[y][x]))

/-- Every pixel 0. -/
def Frame.blank : Frame := Vector.replicate 32 (Vector.replicate 64 false)

/-- FB[x][y] (10_state.md R36). -/
def State.pixel (s : State) (x : Fin 64) (y : Fin 32) : Bool := Frame.pixel s.fb x y

/-! ### MemRead and MemWrite -/

/-- The effective address of the exact address `a` (20_memory.md R67). -/
def ea (p : AddrPolicy) (a : Nat) : Except Fault Nat :=
  match p with
  | .wrap => .ok (a % 4096)
  | .fault => if a ≤ 0xFFF then .ok a else .error .addressRange

/-- MemRead(a, 1) (20_memory.md R67). -/
def State.memRead (s : State) (a : Nat) : Except Fault Byte :=
  match ea s.params.addrPolicy a with
  | .ok e => .ok (s.byteAt e)
  | .error c => .error c

/-- MemWrite(a, 1, x) (20_memory.md R68). -/
def State.memWrite (s : State) (a : Nat) (x : Byte) : Except Fault State :=
  match ea s.params.addrPolicy a with
  | .error c => .error c
  | .ok e =>
    if 0x200 ≤ e then .ok (s.setByte e x)
    else
      match s.params.reservedWrite with
      | .fault => .error .reservedWrite
      | .ignore => .ok s
      | .write => .ok (s.setByte e x)

/-- MemRead at `a`, `a + 1`, …: `n` bytes in increasing order, or the first fault. -/
def State.readBytes (s : State) (a : Nat) : Nat → Except Fault (List Byte)
  | 0 => .ok []
  | n + 1 =>
    match s.memRead a with
    | .error c => .error c
    | .ok b =>
      match s.readBytes (a + 1) n with
      | .error c => .error c
      | .ok bs => .ok (b :: bs)

/-- MemWrite of each byte at `a`, `a + 1`, … in increasing order, or the first fault
(60_exceptions.md R254). -/
def State.writeBytes (s : State) (a : Nat) : List Byte → Except Fault State
  | [] => .ok s
  | x :: xs =>
    match s.memWrite a x with
    | .error c => .error c
    | .ok t => t.writeBytes (a + 1) xs

/-! ### The call stack (10_state.md R28, R29) -/

/-- STACK[SP] <- a; SP <- SP + 1, or STACK_OVERFLOW at SP = 16 (41_control_flow.md R142). -/
def State.push (s : State) (a : Word) : Except Fault State :=
  if h : s.sp.val < 16 then
    .ok { s with stack := s.stack.set s.sp.val a, sp := ⟨s.sp.val + 1, by omega⟩ }
  else .error .stackOverflow

/-- SP <- SP - 1, giving STACK[SP]; the entry is kept. STACK_UNDERFLOW at SP = 0
(41_control_flow.md R140). -/
def State.pop (s : State) : Except Fault (Word × State) :=
  if h : 0 < s.sp.val then
    have hs : s.sp.val - 1 < 16 := by omega
    .ok (s.stack[s.sp.val - 1], { s with sp := ⟨s.sp.val - 1, by omega⟩ })
  else .error .stackUnderflow

/-! ### Taking a fault (60_exceptions.md R251, R252) -/

/-- The code FCAUSE records (R251). -/
def Fault.code : Fault → BitVec 3
  | .stackOverflow => 1
  | .stackUnderflow => 2
  | .reservedWrite => 3
  | .addressRange => 4
  | .keyRange => 5

/-- `enter_fault(c, pc0, S0)` (R252): the state before the step, plus OPC and the fault registers. -/
def State.enterFault (s0 : State) (c : Fault) (pc0 opc : Word) : State :=
  { s0 with pc := pc0, opc := opc, fault := true, fcause := c.code, fpc := pc0 }

/-- The fault of an executing instruction, taken from the state its meaning starts from: PC is the
instruction's address plus 2 and OPC the fetched word, and nothing else differs from S0 (log entry
14), so R252's state is that state with PC moved back. -/
def State.raise (s : State) (c : Fault) : Host.Outcome State Fault Refusal :=
  .next (s.enterFault c (s.pc - 2) s.opc)

/-- The end of a meaning that may raise: its result, or its fault taken from the state `s` it started from. -/
def State.orFault (s : State) : Except Fault State → Host.Outcome State Fault Refusal
  | .ok t => .next t
  | .error c => s.raise c

/-! ### The step's shared parts (40_step_cycle.md) -/

/-- The fetch (R122): the two bytes at PC and PC + 1, high byte first. -/
def State.fetch (s : State) : Except Fault Word :=
  match s.memRead s.pc.toNat with
  | .error c => .error c
  | .ok hi =>
    match s.memRead (s.pc.toNat + 1) with
    | .error c => .error c
    | .ok lo => .ok (wordOfBytes hi lo)

/-- OPC <- the fetched word; PC <- PC + 2 (R122, R123). -/
def State.advance (s : State) (w : Word) : State := { s with opc := w, pc := s.pc + 2 }

/-- `skip` (R125). -/
def State.skip (s : State) : State := s.setPc (s.pc + 2)

/-- `if c then skip`. -/
def State.skipIf (s : State) (c : Bool) : State := if c then s.skip else s

/-- The word stored where a step fetches, high byte first, past every policy; a halted or never reset CORE is made
ready to fetch (log entry 20). -/
def State.placeAtPc (s : State) (w : Word) : State :=
  { (s.setByte (s.pc.toNat % 4096) (highByte w)).setByte ((s.pc.toNat + 1) % 4096) (lowByte w) with
    started := true, fault := false, fcause := 0, fpc := 0 }

/-! ### Draws: the values nothing constrains -/

/-- RAND for this step (42_alu.md R180): the byte the host presents, or the next free value. -/
def State.randValue (s : State) : Byte :=
  match s.randIn with
  | some r => r
  | none => Config.rand s.draws

/-- The state once RAND has been taken: the presented byte is used up, or one more free value is. -/
def State.afterRand (s : State) : State :=
  match s.randIn with
  | some _ => { s with randIn := none }
  | none => { s with draws := s.draws + 1 }

/-- One more free value has been drawn. -/
def State.afterDraw (s : State) : State := { s with draws := s.draws + 1 }

end Sys2Proof.Machine
end

