-- ==== Sys2Proof/Machine/Operands.lean ====
section
/-! DEFINITION. The operand forms of the instructions: registers and immediates as exact numbers
(30_encoding.md R92), the register-indirect address I + k (43_memory_index.md R196), the key a register
names (45_timers_keys.md R236), the pressed key FX0A takes (R237), and the sprite's pixels on the screen
(44_display.md R213, R214). -/

namespace Sys2Proof.Machine

/-- The exact address I + k (43_memory_index.md R196). The address policy is applied by the access. -/
def State.indexAddr (s : State) (k : Nat) : Nat := s.i.toNat + k

/-- `keyidx` (45_timers_keys.md R236). -/
def keyIndex (p : KeyIndex) (v : Byte) : Except Fault (Fin 16) :=
  match p with
  | .wrap => .ok (Fin.ofNat 16 v.toNat)
  | .fault => if h : v.toNat < 16 then .ok ⟨v.toNat, h⟩ else .error .keyRange

/-- The pressed keys in rising order. -/
def State.pressedKeys (s : State) : List (Fin 16) := (List.finRange 16).filter s.keyAt

/-- `keysel(KEY)` (45_timers_keys.md R237): nothing when no key is pressed; else the smallest pressed key, or a free
choice among the pressed keys. -/
def State.keySelect (s : State) : Option (Fin 16) :=
  match s.params.keySelect with
  | .lowest => s.pressedKeys.head?
  | .any => s.pressedKeys[Config.keyDraw s.draws % s.pressedKeys.length]?

/-- The state once `keysel` has been read: under `any` a draw has been used. -/
def State.afterKeySelect (s : State) : State :=
  match s.params.keySelect with
  | .lowest => s
  | .any => s.afterDraw

/-- Where sprite pixel (c, r) lands when the sprite starts at column `x0` and row `y0`
(44_display.md R214); nowhere when the edge policy drops it. -/
def landing (p : DrawEdge) (x0 : Fin 64) (y0 : Fin 32) (c r : Nat) : Option (Fin 64 × Fin 32) :=
  match p with
  | .wrap => some (Fin.ofNat 64 (x0.val + c), Fin.ofNat 32 (y0.val + r))
  | .clip =>
    if h : x0.val + c < 64 ∧ y0.val + r < 32 then some (⟨x0.val + c, h.1⟩, ⟨y0.val + r, h.2⟩) else none

/-- x0 = V[X] mod 64 (44_display.md R214). -/
def startColumn (v : Byte) : Fin 64 := Fin.ofNat 64 v.toNat

/-- y0 = V[Y] mod 32 (44_display.md R214). -/
def startRow (v : Byte) : Fin 32 := Fin.ofNat 32 v.toNat

/-- Column `c` of a sprite row is bit 7 - c of its byte (44_display.md R213). -/
def spriteBit (row : Byte) (c : Nat) : Bool := row.getLsbD (7 - c)

/-- The decimal digits of a byte: hundreds, tens, ones (43_memory_index.md R193). -/
def bcdDigits (b : Byte) : List Byte :=
  [BitVec.ofNat 8 (b.toNat / 100), BitVec.ofNat 8 (b.toNat / 10 % 10), BitVec.ofNat 8 (b.toNat % 10)]

end Sys2Proof.Machine
end

