-- ==== Sys2Proof/Machine/Flags.lean ====
section
/-! DEFINITION. The flag computations of the ALU, the index adder and the framebuffer controller (42_alu.md R160,
43_memory_index.md R191, 44_display.md R215), and the two operand orders of a flag-writing instruction
(42_alu.md R173). -/

namespace Sys2Proof.Machine

/-- A flag as the byte VF receives. -/
def flagByte (b : Bool) : Byte := if b then 1 else 0

/-- The carry out of bit 7: the exact sum exceeds 255 (R160). -/
def carryOut (a b : Byte) : Bool := decide (a.toNat + b.toNat > 255)

/-- NOT borrow of `a - b`: the minuend is at least the subtrahend (R160). -/
def noBorrow (a b : Byte) : Bool := decide (a.toNat ≥ b.toNat)

/-- The bit a right shift moves out (R169). -/
def lowBitOut (b : Byte) : Bool := b.getLsbD 0

/-- The bit a left shift moves out (R171). -/
def highBitOut (b : Byte) : Bool := b.getLsbD 7

/-- The flag of FX1E: the exact sum exceeds 0xFFF (43_memory_index.md R191). -/
def indexOverflow (i : Word) (b : Byte) : Bool := decide (i.toNat + b.toNat > 0xFFF)

/-- `VF <- flag`. -/
def State.setFlag (s : State) (b : Bool) : State := s.setReg regVF (flagByte b)

/-- The state the second assignment of a flag-writing instruction reads its operands from (R173): the one the flag
write left, or the one the instruction started from. -/
def State.operandState (s : State) (flag : Bool) : State :=
  match s.params.operandOrder with
  | .sequential => s.setFlag flag
  | .latched => s

/-- `VF <- flag; V[x] <- result`, under P_OPERAND_ORDER (R173). -/
def State.flagThenReg (s : State) (flag : Bool) (x : Reg) (result : State → Byte) : State :=
  (s.setFlag flag).setReg x (result (s.operandState flag))

/-- `VF <- flag; I <- result`, under P_OPERAND_ORDER (R173, R191). -/
def State.flagThenI (s : State) (flag : Bool) (result : State → Word) : State :=
  (s.setFlag flag).setI (result (s.operandState flag))

/-- VF after a draw (44_display.md R212): the collision bit, or, with P_DRAW_VF_CLEAR = `false` and no collision, VF as
it was. -/
def State.setCollision (s : State) (hit : Bool) : State :=
  if s.params.drawVfClear || hit then s.setFlag hit else s

end Sys2Proof.Machine
end

