-- ==== Sys2Proof/Machine/Alu.lean ====
section
/-! DEFINITION. Register loads and the 8-bit ALU (42_alu.md R160 to R180). -/

namespace Sys2Proof.Machine

/-- LD Vx, byte, 6XNN (R161). -/
def execLdVxByte (x : Reg) (nn : Byte) (s : State) : Host.Outcome State Fault Refusal :=
  .next (s.setReg x nn)

/-- ADD Vx, byte, 7XNN (R162): no flag. -/
def execAddVxByte (x : Reg) (nn : Byte) (s : State) : Host.Outcome State Fault Refusal :=
  .next (s.setReg x (s.reg x + nn))

/-- LD Vx, Vy, 8XY0 (R163). -/
def execLdVxVy (x y : Reg) (s : State) : Host.Outcome State Fault Refusal :=
  .next (s.setReg x (s.reg y))

/-- OR Vx, Vy, 8XY1 (R164). -/
def execOrVxVy (x y : Reg) (s : State) : Host.Outcome State Fault Refusal :=
  .next (s.setReg x (s.reg x ||| s.reg y))

/-- AND Vx, Vy, 8XY2 (R165). -/
def execAndVxVy (x y : Reg) (s : State) : Host.Outcome State Fault Refusal :=
  .next (s.setReg x (s.reg x &&& s.reg y))

/-- XOR Vx, Vy, 8XY3 (R166). -/
def execXorVxVy (x y : Reg) (s : State) : Host.Outcome State Fault Refusal :=
  .next (s.setReg x (s.reg x ^^^ s.reg y))

/-- ADD Vx, Vy, 8XY4 (R167). -/
def execAddVxVy (x y : Reg) (s : State) : Host.Outcome State Fault Refusal :=
  .next (s.flagThenReg (carryOut (s.reg x) (s.reg y)) x (fun t => t.reg x + t.reg y))

/-- SUB Vx, Vy, 8XY5 (R168). -/
def execSubVxVy (x y : Reg) (s : State) : Host.Outcome State Fault Refusal :=
  .next (s.flagThenReg (noBorrow (s.reg x) (s.reg y)) x (fun t => t.reg x - t.reg y))

/-- SHR Vx, Vy, 8XY6 (R169): the source is V[Y]. -/
def execShrVxVy (x y : Reg) (s : State) : Host.Outcome State Fault Refusal :=
  .next (s.flagThenReg (lowBitOut (s.reg y)) x (fun t => t.reg y >>> 1))

/-- SUBN Vx, Vy, 8XY7 (R170). -/
def execSubnVxVy (x y : Reg) (s : State) : Host.Outcome State Fault Refusal :=
  .next (s.flagThenReg (noBorrow (s.reg y) (s.reg x)) x (fun t => t.reg y - t.reg x))

/-- SHL Vx, Vy, 8XYE (R171): the source is V[Y]. -/
def execShlVxVy (x y : Reg) (s : State) : Host.Outcome State Fault Refusal :=
  .next (s.flagThenReg (highBitOut (s.reg y)) x (fun t => t.reg y <<< 1))

/-- RND Vx, byte, CXNN (R172, R180). -/
def execRndVxByte (x : Reg) (nn : Byte) (s : State) : Host.Outcome State Fault Refusal :=
  .next (s.afterRand.setReg x (s.randValue &&& nn))

end Sys2Proof.Machine
end

