-- ==== Sys2Proof/Machine/Control.lean ====
section
/-! DEFINITION. Control transfer: jumps, call, return and the skips on registers (41_control_flow.md R140 to R147). Every meaning
starts from the state after fetch and advance: PC is the instruction's address plus 2. -/

namespace Sys2Proof.Machine

/-- RET, 00EE (R140). -/
def execRet (s : State) : Host.Outcome State Fault Refusal :=
  s.orFault (match s.pop with
    | .ok (a, t) => .ok (t.setPc a)
    | .error c => .error c)

/-- JP addr, 1NNN (R141). -/
def execJpAddr (nnn : Addr) (s : State) : Host.Outcome State Fault Refusal :=
  .next (s.setPc (zextAddr nnn))

/-- CALL addr, 2NNN (R142). -/
def execCallAddr (nnn : Addr) (s : State) : Host.Outcome State Fault Refusal :=
  s.orFault (match s.push s.pc with
    | .ok t => .ok (t.setPc (zextAddr nnn))
    | .error c => .error c)

/-- JP V0, addr, BNNN (R143). -/
def execJpV0Addr (nnn : Addr) (s : State) : Host.Outcome State Fault Refusal :=
  .next (s.setPc (zextByte (s.reg 0) + zextAddr nnn))

/-- SE Vx, byte, 3XNN (R144). -/
def execSeVxByte (x : Reg) (nn : Byte) (s : State) : Host.Outcome State Fault Refusal :=
  .next (s.skipIf (s.reg x == nn))

/-- SNE Vx, byte, 4XNN (R145). -/
def execSneVxByte (x : Reg) (nn : Byte) (s : State) : Host.Outcome State Fault Refusal :=
  .next (s.skipIf (s.reg x != nn))

/-- SE Vx, Vy, 5XY0 (R146). -/
def execSeVxVy (x y : Reg) (s : State) : Host.Outcome State Fault Refusal :=
  .next (s.skipIf (s.reg x == s.reg y))

/-- SNE Vx, Vy, 9XY0 (R147). -/
def execSneVxVy (x y : Reg) (s : State) : Host.Outcome State Fault Refusal :=
  .next (s.skipIf (s.reg x != s.reg y))

end Sys2Proof.Machine
end

