-- ==== Sys2Proof/Machine/Display.lean ====
section
/-! DEFINITION. The framebuffer controller: clear and draw (44_display.md R210 to R216). -/

namespace Sys2Proof.Machine

/-- One sprite pixel (c, r) of R212: a set bit that lands flips its pixel, and a pixel that was set is a
collision (R215). The accumulator is the framebuffer and the collision bit. -/
def drawPixel (p : DrawEdge) (x0 : Fin 64) (y0 : Fin 32) (row : Byte) (r : Nat) (acc : Frame × Bool)
    (c : Nat) : Frame × Bool :=
  if spriteBit row c then
    match landing p x0 y0 c r with
    | some (px, py) => (Frame.flip acc.1 px py, acc.2 || Frame.pixel acc.1 px py)
    | none => acc
  else acc

/-- The eight pixels of sprite row `r`, left to right. -/
def drawRow (p : DrawEdge) (x0 : Fin 64) (y0 : Fin 32) (row : Byte) (r : Nat) (acc : Frame × Bool) :
    Frame × Bool :=
  (List.range 8).foldl (drawPixel p x0 y0 row r) acc

/-- The sprite rows from row `r` on, top to bottom. -/
def drawRows (p : DrawEdge) (x0 : Fin 64) (y0 : Fin 32) : List Byte → Nat → Frame × Bool → Frame × Bool
  | [], _, acc => acc
  | row :: rows, r, acc => drawRows p x0 y0 rows (r + 1) (drawRow p x0 y0 row r acc)

/-- The end of a draw: the framebuffer, then VF, then DIRTY <- 1 (R212, R216). -/
def State.finishDraw (s : State) (acc : Frame × Bool) : State :=
  ((s.setFb acc.1).setCollision acc.2).setDirty true

/-- The sprite of the given rows drawn at (V[X], V[Y]); the coordinates are read before VF is written (R212). -/
def State.drawSprite (s : State) (x y : Reg) (rows : List Byte) : State :=
  s.finishDraw
    (drawRows s.params.drawEdge (startColumn (s.reg x)) (startRow (s.reg y)) rows 0 (s.fb, false))

/-- CLS, 00E0 (R211). -/
def execCls (s : State) : Host.Outcome State Fault Refusal :=
  .next ((s.setFb Frame.blank).setDirty true)

/-- DRW Vx, Vy, nibble, DXYN (R212). The rows are read before the first pixel is drawn: a draw changes no memory, and
a fault leaves no effect, so the order cannot be seen (log entry 19). -/
def execDrwVxVyNibble (x y : Reg) (n : Nibble) (s : State) : Host.Outcome State Fault Refusal :=
  s.orFault (match s.readBytes (s.indexAddr 0) n.toNat with
    | .ok rows => .ok (s.drawSprite x y rows)
    | .error c => .error c)

end Sys2Proof.Machine
end

