-- ==== Sys2Proof/Machine/Index.lean ====
section
/-! DEFINITION. The index register, loads and stores (43_memory_index.md R190 to R196). -/

namespace Sys2Proof.Machine

/-- LD I, addr, ANNN (R190). -/
def execLdIAddr (nnn : Addr) (s : State) : Host.Outcome State Fault Refusal :=
  .next (s.setI (zextAddr nnn))

/-- ADD I, Vx, FX1E (R191). -/
def execAddIVx (x : Reg) (s : State) : Host.Outcome State Fault Refusal :=
  .next (s.flagThenI (indexOverflow s.i (s.reg x)) (fun t => t.i + zextByte (t.reg x)))

/-- LD F, Vx, FX29 (R192): V[X] is not masked. -/
def execLdFVx (x : Reg) (s : State) : Host.Outcome State Fault Refusal :=
  .next (s.setI (zextByte (s.reg x) * 5))

/-- LD B, Vx, FX33 (R193). -/
def execLdBVx (x : Reg) (s : State) : Host.Outcome State Fault Refusal :=
  s.orFault (s.writeBytes (s.indexAddr 0) (bcdDigits (s.reg x)))

/-- I <- (I + X + 1) mod 2^16, the post-increment of FX55 and FX65 (R194, R195). -/
def State.bumpI (s : State) (x : Reg) : State := s.setI (s.i + BitVec.ofNat 16 (x.val + 1))

/-- LD [I], Vx, FX55 (R194). -/
def execLdMemVx (x : Reg) (s : State) : Host.Outcome State Fault Refusal :=
  s.orFault (match s.writeBytes (s.indexAddr 0) (s.regsUpTo x) with
    | .ok t => .ok (t.bumpI x)
    | .error c => .error c)

/-- LD Vx, [I], FX65 (R195). -/
def execLdVxMem (x : Reg) (s : State) : Host.Outcome State Fault Refusal :=
  s.orFault (match s.readBytes (s.indexAddr 0) (x.val + 1) with
    | .ok bs => .ok ((s.setRegs bs).bumpI x)
    | .error c => .error c)

end Sys2Proof.Machine
end

