-- ==== Sys2Proof/Machine/Keys.lean ====
section
/-! DEFINITION. Key tests, key wait and timer access (45_timers_keys.md R230 to R237). -/

namespace Sys2Proof.Machine

/-- SKP Vx, EX9E (R230). -/
def execSkpVx (x : Reg) (s : State) : Host.Outcome State Fault Refusal :=
  s.orFault (match keyIndex s.params.keyIndex (s.reg x) with
    | .ok k => .ok (s.skipIf (s.keyAt k))
    | .error c => .error c)

/-- SKNP Vx, EXA1 (R231). -/
def execSknpVx (x : Reg) (s : State) : Host.Outcome State Fault Refusal :=
  s.orFault (match keyIndex s.params.keyIndex (s.reg x) with
    | .ok k => .ok (s.skipIf (!s.keyAt k))
    | .error c => .error c)

/-- LD Vx, DT, FX07 (R232). -/
def execLdVxDT (x : Reg) (s : State) : Host.Outcome State Fault Refusal :=
  .next (s.setReg x s.dt)

/-- LD Vx, K, FX0A (R233): with no key pressed, PC goes back to this instruction; else V[X] is a pressed key. -/
def execLdVxK (x : Reg) (s : State) : Host.Outcome State Fault Refusal :=
  match s.keySelect with
  | none => .next (s.setPc (s.pc - 2))
  | some k => .next (s.afterKeySelect.setReg x (BitVec.ofNat 8 k.val))

/-- LD DT, Vx, FX15 (R234). -/
def execLdDTVx (x : Reg) (s : State) : Host.Outcome State Fault Refusal :=
  .next (s.setDt (s.reg x))

/-- LD ST, Vx, FX18 (R235). -/
def execLdSTVx (x : Reg) (s : State) : Host.Outcome State Fault Refusal :=
  .next (s.setSt (s.reg x))

end Sys2Proof.Machine
end

