-- ==== Sys2Proof/Machine/Cycle.lean ====
section
/-! DEFINITION. One step of the CORE (40_step_cycle.md R128) from its parts: the halt, the fetch, the advance and
the dispatch. -/

namespace Sys2Proof.Machine

/-- `execute(decode(OPC))` (R124, R127): the decoded instruction's meaning, or nothing more for the no-op. -/
def execDecoded (d : Decoded) (s : State) : Host.Outcome State Fault Refusal :=
  match d with
  | .instr i => exec i s
  | .noOp => .next s

/-- The step of a CORE that is not halted (R128). A fault of the fetch leaves OPC as it was, because the bytes were not
both read (60_exceptions.md R252). -/
def runStep (s : State) : Host.Outcome State Fault Refusal :=
  match s.fetch with
  | .error c => .next (s.enterFault c s.pc s.opc)
  | .ok w => execDecoded (decode s.params w) (s.advance w)

/-- Step (R128). Before the first Reset or Load it is refused (10_state.md R44); while FAULT = 1 it has no effect
(R121). -/
def stepCore (s : State) : Host.Outcome State Fault Refusal :=
  if s.started then
    if s.fault then .next s else runStep s
  else .refused .beforeFirstReset

end Sys2Proof.Machine
end

