-- ==== Sys2Proof/Machine/Step.lean ====
section
/-! DEFINITION. The step of the machine, and the state with an instruction placed where the step fetches. -/

namespace Sys2Proof.Machine

/-- One Step of the CORE (40_step_cycle.md R128). -/
def step (s : State) : Host.Outcome State Fault Refusal := stepCore s

/-- `s` with an instruction word stored where `step` fetches its next instruction. Bit 0 of `w` is the least significant
bit of the 16-bit word, which is stored high byte first (20_memory.md R66). -/
def State.withFetchWord (s : State) (nbits w : Nat) : State :=
  s.placeAtPc (BitVec.ofNat 16 (w % 2 ^ nbits))

end Sys2Proof.Machine
end

