-- ==== Sys2Proof/Machine/HostOps.lean ====
section
/-! DEFINITION. The host operations of 60_exceptions.md R270: Reset, Load, Step, Tick, WriteKeys, ClearDirty and Observe, each
one atomic transaction (R271). -/

namespace Sys2Proof.Machine

/-- The operations the host may request (R270). `step` carries the byte the host presents as RAND, which only a CXNN
reads (42_alu.md R180). -/
inductive HostOp where
  | reset
  | load (bytes : List Byte) (ok : Bool)
  | step (rand : Byte)
  | tick
  | writeKeys (m : Word)
  | clearDirty
  | observe
deriving DecidableEq, Repr

/-- Reset (70_reset_and_hazards.md R290). It keeps what is not state of the CORE: the instance's parameters, and the
count of free values already drawn (log entry 9). -/
def State.doReset (s : State) : State := State.resetOf s.params s.draws

/-- The state a failed Load leaves: the reset state with LOAD_ERR = 1 (R296). -/
def State.failLoad (s : State) : State := { s.doReset with loadErr := true }

/-- Load (R294): Reset, then the image from 0x200 on; or a failure if its source is unreadable or it is longer than
MAX_ROM (R295). -/
def State.doLoad (s : State) (bytes : List Byte) (ok : Bool) : State :=
  if ok && decide (bytes.length ≤ Config.maxRom) then s.doReset.setBytes Config.programBase bytes
  else s.failLoad

/-- Tick (60_exceptions.md R260): both timers down by one, floored at 0. -/
def State.tick (s : State) : State :=
  { s with dt := if s.dt = 0 then 0 else s.dt - 1, st := if s.st = 0 then 0 else s.st - 1 }

/-- WriteKeys(m) (R272): KEY[k] <- m[k] for every k. -/
def State.writeKeys (s : State) (m : Word) : State :=
  { s with key := Vector.ofFn fun k : Fin 16 => m.getLsbD k.val }

/-- ClearDirty() (R273). -/
def State.clearDirty (s : State) : State := { s with dirty := false }

/-- The host presents RAND for the next Step. -/
def State.presentRand (s : State) (r : Byte) : State := { s with randIn := some r }

/-- The Step is over: a byte presented for it is presented no longer. -/
def State.withdrawRand (s : State) : State := { s with randIn := none }

/-- Step with `r` on the RAND input. -/
def State.stepWith (s : State) (r : Byte) : Host.Outcome State Fault Refusal :=
  match step (s.presentRand r) with
  | .next t => .next t.withdrawRand
  | .fault c => .fault c
  | .refused e => .refused e

/-- An operation that needs a Reset or Load before it (10_state.md R44; 92 D19). -/
def State.whenStarted (s : State) (o : Host.Outcome State Fault Refusal) : Host.Outcome State Fault Refusal :=
  if s.started then o else .refused .beforeFirstReset

/-- One host operation (R270). Reset and Load are accepted in every state. Tick, WriteKeys and ClearDirty act while FAULT =
1 too (R253). Observe changes nothing (R274): what it reads is the State,
bit by bit `State.obsBit`. -/
def perform (op : HostOp) (s : State) : Host.Outcome State Fault Refusal :=
  match op with
  | .reset => .next s.doReset
  | .load bytes ok => .next (s.doLoad bytes ok)
  | .step r => s.stepWith r
  | .tick => s.whenStarted (.next s.tick)
  | .writeKeys m => s.whenStarted (.next (s.writeKeys m))
  | .clearDirty => s.whenStarted (.next s.clearDirty)
  | .observe => s.whenStarted (.next s)

/-- A sequence of host operations, stopping at the first that is refused. -/
def performAll : List HostOp → State → Host.Outcome State Fault Refusal
  | [], s => .next s
  | op :: ops, s =>
    match perform op s with
    | .next t => performAll ops t
    | .fault c => .fault c
    | .refused e => .refused e

/-- The framebuffer read of R274 and R275 in the row-major order of 44_display.md R210: `fb_rd_addr` is 64·y + x. -/
def State.framePort (s : State) (addr : BitVec 11) : Bool :=
  s.pixel (Fin.ofNat 64 (addr.toNat % 64)) (Fin.ofNat 32 (addr.toNat / 64))

/-! ### What Observe reads (60_exceptions.md R274) -/

/-- The value of one observable bit. -/
def State.obsBit (s : State) : ObsBit → Bool
  | .v x b => (s.reg x).getLsbD b.val
  | .i b => s.i.getLsbD b.val
  | .pc b => s.pc.getLsbD b.val
  | .sp b => s.sp.val.testBit b.val
  | .stack k b => s.stack[k].getLsbD b.val
  | .dt b => s.dt.getLsbD b.val
  | .st b => s.st.getLsbD b.val
  | .key k => s.keyAt k
  | .fb x y => s.pixel x y
  | .dirty => s.dirty
  | .opc b => s.opc.getLsbD b.val
  | .fault => s.fault
  | .fcause b => s.fcause.getLsbD b.val
  | .fpc b => s.fpc.getLsbD b.val
  | .loadErr => s.loadErr
  | .mem a b => (s.byteAt a.val).getLsbD b.val

/-- Every bit of an element that has one bit for each index. -/
def bitsOf (n : Nat) (f : Fin n → ObsBit) : List ObsBit := (List.finRange n).map f

/-- Every bit of an array of such elements. -/
def bitsOfArray (m n : Nat) (f : Fin m → Fin n → ObsBit) : List ObsBit :=
  (List.finRange m).flatMap fun k => bitsOf n (f k)

/-- Every observable bit, in the order of 10_state.md. -/
def allObsBits : List ObsBit :=
  bitsOfArray 16 8 .v ++ bitsOf 16 .i ++ bitsOf 16 .pc ++ bitsOf 5 .sp ++ bitsOfArray 16 16 .stack ++
  bitsOf 8 .dt ++ bitsOf 8 .st ++ bitsOf 16 .key ++ bitsOfArray 64 32 .fb ++ [.dirty] ++ bitsOf 16 .opc ++
  [.fault] ++ bitsOf 3 .fcause ++ bitsOf 16 .fpc ++ [.loadErr] ++ bitsOfArray 4096 8 .mem

/-- What the observation port shows, under P_OBS_MAP. -/
def State.obsPort (s : State) : List Bool :=
  match s.params.obsMap with
  | .unspecified => Config.obsEncode (allObsBits.map s.obsBit)
  | .wires bits => bits.map s.obsBit

end Sys2Proof.Machine
end

