-- ==== Sys2Proof/Machine/Ports.lean ====
section
/-! DEFINITION. The port-level realisation of the host operations: the port map of 60_exceptions.md R275, the order of the
requests of one clock cycle (R271), the byte-by-byte Load (70_reset_and_hazards.md R294), and the
reference dispatch state machine of 40_step_cycle.md R129, one of whose states it runs in each clock
cycle. Cycle counts are not architectural (R309; log entry 10). -/

namespace Sys2Proof.Machine

/-- The input ports sampled at one rising edge of `clk` (R275). -/
structure PortsIn where
  rstReq : Bool
  stepReq : Bool
  tickReq : Bool
  keysWe : Bool
  keysIn : Word
  dirtyClr : Bool
  loadStart : Bool
  loadLen : Word
  loadByteValid : Bool
  loadByte : Byte
  loadAbort : Bool
  randIn : Byte
deriving DecidableEq, Repr

/-- No request, with `r` on `rand_in`. -/
def PortsIn.quiet (r : Byte) : PortsIn where
  rstReq := false
  stepReq := false
  tickReq := false
  keysWe := false
  keysIn := 0
  dirtyClr := false
  loadStart := false
  loadLen := 0
  loadByteValid := false
  loadByte := 0
  loadAbort := false
  randIn := r

/-- A request that `busy` = 1 forbids (R275). -/
def PortsIn.request (p : PortsIn) : Bool :=
  p.stepReq || p.tickReq || p.keysWe || p.dirtyClr || p.loadStart

/-- The instructions of the MEMSEQ state (R129): FX33, FX55, FX65. -/
inductive SeqOp where
  | bcd (x : Reg)
  | store (x : Reg)
  | load (x : Reg)
deriving DecidableEq, Repr

/-- How many bytes a MEMSEQ instruction moves (20_memory.md R70). -/
def SeqOp.count : SeqOp → Nat
  | .bcd _ => 3
  | .store x => x.val + 1
  | .load x => x.val + 1

/-- The states of R129. `memseq` and `draw` carry the byte or row they are at, `draw` the collision bit, `load` the bytes
still expected and the address of the next. -/
inductive Phase where
  | reset
  | idle
  | fetch
  | decode
  | exec (i : Instr)
  | memseq (o : SeqOp) (k : Nat)
  | clear
  | draw (x y : Reg) (n : Nibble) (r : Nat) (hit : Bool)
  | load (remaining next : Nat)
  | faulted
deriving DecidableEq, Repr

/-- The CORE with the state of its dispatch state machine, which is not architectural (10_state.md R43). -/
structure PortState where
  core : State
  phase : Phase
deriving DecidableEq, Repr

/-- The state an operation ends in: FAULTED while FAULT = 1, IDLE otherwise (R129). -/
def restPhase (s : State) : Phase := if s.fault then .faulted else .idle

/-- The CORE with the operation over. -/
def PortState.rest (s : State) : PortState := ⟨s, restPhase s⟩

/-- `busy` (R275): an operation is in progress. -/
def PortState.busy (m : PortState) : Bool :=
  match m.phase with
  | .idle => false
  | .faulted => false
  | .reset => true
  | .fetch => true
  | .decode => true
  | .exec _ => true
  | .memseq _ _ => true
  | .clear => true
  | .draw _ _ _ _ _ => true
  | .load _ _ => true

/-! ### Deciding a fault before the first write (R129) -/

/-- The fault of reading `n` bytes from I on (20_memory.md R67): the last address exceeds 0xFFF. -/
def State.readFault (s : State) (n : Nat) : Option Fault :=
  if s.params.addrPolicy = .fault ∧ 0 < n ∧ s.indexAddr (n - 1) > 0xFFF then some .addressRange else none

/-- The fault of writing `n` bytes from I on (20_memory.md R67, R68). -/
def State.writeFault (s : State) (n : Nat) : Option Fault :=
  match s.readFault n with
  | some c => some c
  | none =>
    if s.params.reservedWrite = .fault ∧ ∃ k < n, s.indexAddr k % 4096 < 0x200 then some .reservedWrite
    else none

/-- The fault a MEMSEQ instruction takes, decided before its first byte. -/
def SeqOp.faultOf (o : SeqOp) (s : State) : Option Fault :=
  match o with
  | .bcd _ => s.writeFault 3
  | .store x => s.writeFault (x.val + 1)
  | .load x => s.readFault (x.val + 1)

/-- The fault an instruction takes, as a function of I, X, N, SP, V[X] and the policy parameters alone
(R129; 60_exceptions.md R251). -/
def faultOf (i : Instr) (s : State) : Option Fault :=
  match i with
  | .ret => if s.sp.val = 0 then some .stackUnderflow else none
  | .callAddr _ => if s.sp.val = 16 then some .stackOverflow else none
  | .skpVx x => if s.params.keyIndex = .fault ∧ (s.reg x).toNat > 15 then some .keyRange else none
  | .sknpVx x => if s.params.keyIndex = .fault ∧ (s.reg x).toNat > 15 then some .keyRange else none
  | .drwVxVyNibble _ _ n => s.readFault n.toNat
  | .ldBVx _ => s.writeFault 3
  | .ldMemVx x => s.writeFault (x.val + 1)
  | .ldVxMem x => s.readFault (x.val + 1)
  | .cls => none
  | .jpAddr _ => none
  | .seVxByte _ _ => none
  | .sneVxByte _ _ => none
  | .seVxVy _ _ => none
  | .ldVxByte _ _ => none
  | .addVxByte _ _ => none
  | .ldVxVy _ _ => none
  | .orVxVy _ _ => none
  | .andVxVy _ _ => none
  | .xorVxVy _ _ => none
  | .addVxVy _ _ => none
  | .subVxVy _ _ => none
  | .shrVxVy _ _ => none
  | .subnVxVy _ _ => none
  | .shlVxVy _ _ => none
  | .sneVxVy _ _ => none
  | .ldIAddr _ => none
  | .jpV0Addr _ => none
  | .rndVxByte _ _ => none
  | .ldVxDT _ => none
  | .ldVxK _ => none
  | .ldDTVx _ => none
  | .ldSTVx _ => none
  | .addIVx _ => none
  | .ldFVx _ => none

/-! ### The states of R129, one clock cycle each -/

/-- Where DECODE sends an instruction (R129): MEMSEQ for FX33, FX55, FX65; DRAW for 00E0 and DXYN; EXEC for every
other. -/
def phaseOf (i : Instr) : Phase :=
  match i with
  | .cls => .clear
  | .ret => .exec .ret
  | .jpAddr nnn => .exec (.jpAddr nnn)
  | .callAddr nnn => .exec (.callAddr nnn)
  | .seVxByte x nn => .exec (.seVxByte x nn)
  | .sneVxByte x nn => .exec (.sneVxByte x nn)
  | .seVxVy x y => .exec (.seVxVy x y)
  | .ldVxByte x nn => .exec (.ldVxByte x nn)
  | .addVxByte x nn => .exec (.addVxByte x nn)
  | .ldVxVy x y => .exec (.ldVxVy x y)
  | .orVxVy x y => .exec (.orVxVy x y)
  | .andVxVy x y => .exec (.andVxVy x y)
  | .xorVxVy x y => .exec (.xorVxVy x y)
  | .addVxVy x y => .exec (.addVxVy x y)
  | .subVxVy x y => .exec (.subVxVy x y)
  | .shrVxVy x y => .exec (.shrVxVy x y)
  | .subnVxVy x y => .exec (.subnVxVy x y)
  | .shlVxVy x y => .exec (.shlVxVy x y)
  | .sneVxVy x y => .exec (.sneVxVy x y)
  | .ldIAddr nnn => .exec (.ldIAddr nnn)
  | .jpV0Addr nnn => .exec (.jpV0Addr nnn)
  | .rndVxByte x nn => .exec (.rndVxByte x nn)
  | .drwVxVyNibble x y n => .draw x y n 0 false
  | .skpVx x => .exec (.skpVx x)
  | .sknpVx x => .exec (.sknpVx x)
  | .ldVxDT x => .exec (.ldVxDT x)
  | .ldVxK x => .exec (.ldVxK x)
  | .ldDTVx x => .exec (.ldDTVx x)
  | .ldSTVx x => .exec (.ldSTVx x)
  | .addIVx x => .exec (.addIVx x)
  | .ldFVx x => .exec (.ldFVx x)
  | .ldBVx x => .memseq (.bcd x) 0
  | .ldMemVx x => .memseq (.store x) 0
  | .ldVxMem x => .memseq (.load x) 0

/-- The fault of a FAULTED state, entered from the state fetch and decode left (60_exceptions.md R252). -/
def enterFaulted (s : State) (c : Fault) : Host.Outcome PortState Fault Refusal :=
  .next (PortState.rest (s.enterFault c (s.pc - 2) s.opc))

/-- FETCH (R129). -/
def fetchCycle (s : State) : Host.Outcome PortState Fault Refusal :=
  match s.fetch with
  | .error c => .next (PortState.rest (s.enterFault c s.pc s.opc))
  | .ok w => .next ⟨s.advance w, .decode⟩

/-- DECODE (R129). -/
def decodeCycle (s : State) : Host.Outcome PortState Fault Refusal :=
  match decode s.params s.opc with
  | .instr i => .next ⟨s, phaseOf i⟩
  | .noOp => .next (PortState.rest s)

/-- EXEC (R129); `rand_in` is sampled here (60_exceptions.md R275). -/
def execCycle (r : Byte) (i : Instr) (s : State) : Host.Outcome PortState Fault Refusal :=
  match exec i (s.presentRand r) with
  | .next t => .next (PortState.rest t.withdrawRand)
  | .fault c => .fault c
  | .refused e => .refused e

/-- Byte `k` of a MEMSEQ instruction. Its faults were decided before byte 0. -/
def SeqOp.move (o : SeqOp) (k : Nat) (s : State) : Except Fault State :=
  match o with
  | .bcd x => s.memWrite (s.indexAddr k) ((bcdDigits (s.reg x)).getD k 0)
  | .store _ => s.memWrite (s.indexAddr k) (s.reg (Fin.ofNat 16 k))
  | .load _ =>
    match s.memRead (s.indexAddr k) with
    | .ok b => .ok (s.setReg (Fin.ofNat 16 k) b)
    | .error c => .error c

/-- The end of a MEMSEQ instruction: the I update of FX55 and FX65. -/
def SeqOp.finish (o : SeqOp) (s : State) : State :=
  match o with
  | .bcd _ => s
  | .store x => s.bumpI x
  | .load x => s.bumpI x

/-- MEMSEQ (R129): one byte a cycle, then the I update. -/
def memseqCycle (o : SeqOp) (k : Nat) (s : State) : Host.Outcome PortState Fault Refusal :=
  if k < o.count then
    match (if k = 0 then o.faultOf s else none) with
    | some c => enterFaulted s c
    | none =>
      match o.move k s with
      | .ok t => .next ⟨t, .memseq o (k + 1)⟩
      | .error c => enterFaulted s c
  else .next (PortState.rest (o.finish s))

/-- DRAW for DXYN (R129): one row a cycle, then VF and DIRTY. -/
def drawCycle (x y : Reg) (n : Nibble) (r : Nat) (hit : Bool) (s : State) :
    Host.Outcome PortState Fault Refusal :=
  if r < n.toNat then
    match (if r = 0 then s.readFault n.toNat else none) with
    | some c => enterFaulted s c
    | none =>
      match s.memRead (s.indexAddr r) with
      | .error c => enterFaulted s c
      | .ok row =>
        let acc := drawRow s.params.drawEdge (startColumn (s.reg x)) (startRow (s.reg y)) row r (s.fb, hit)
        .next ⟨s.setFb acc.1, .draw x y n (r + 1) acc.2⟩
  else .next (PortState.rest (s.finishDraw (s.fb, hit)))

/-- DRAW for 00E0 (R129). -/
def clearCycle (s : State) : Host.Outcome PortState Fault Refusal :=
  .next (PortState.rest ((s.setFb Frame.blank).setDirty true))

/-- LOAD (R129, R294): an abort ends the Load as a failure at any point; a byte goes to the next address; the Load is
complete after the last. -/
def loadCycle (p : PortsIn) (remaining next : Nat) (s : State) : Host.Outcome PortState Fault Refusal :=
  if p.loadAbort then .next (PortState.rest s.failLoad)
  else if p.loadByteValid then
    let t := s.setByte next p.loadByte
    if remaining ≤ 1 then .next (PortState.rest t) else .next ⟨t, .load (remaining - 1) (next + 1)⟩
  else .next ⟨s, .load remaining next⟩

/-- A Load accepted (R294): a length above MAX_ROM is rejected before any byte is written. -/
def startLoad (p : PortsIn) (s : State) : Host.Outcome PortState Fault Refusal :=
  if p.loadByteValid then .refused .portNoLoad
  else if p.loadAbort || decide (p.loadLen.toNat > Config.maxRom) then .next (PortState.rest s.failLoad)
  else if p.loadLen = 0 then .next (PortState.rest s.doReset)
  else .next ⟨s.doReset, .load p.loadLen.toNat Config.programBase⟩

/-- The requests other than Reset and Load, in the order of R271: WriteKeys, ClearDirty, Tick, Step. A Step while FAULT = 1
has no effect. -/
def serveRequests (p : PortsIn) (s : State) : PortState :=
  let s1 := if p.keysWe then s.writeKeys p.keysIn else s
  let s2 := if p.dirtyClr then s1.clearDirty else s1
  let s3 := if p.tickReq then s2.tick else s2
  if p.stepReq && !s3.fault then ⟨s3.withdrawRand, .fetch⟩ else PortState.rest s3

/-- IDLE and FAULTED (R129). -/
def idleCycle (p : PortsIn) (s : State) : Host.Outcome PortState Fault Refusal :=
  if p.loadStart then startLoad p s
  else if p.loadByteValid || p.loadAbort then .refused .portNoLoad
  else if p.request && !s.started then .refused .beforeFirstReset
  else .next (serveRequests p s)

/-- A cycle of an operation in progress that is not a Load: it takes no request and no load byte. -/
def busyCycle (p : PortsIn) (o : Host.Outcome PortState Fault Refusal) : Host.Outcome PortState Fault Refusal :=
  if p.request then .refused .portBusy
  else if p.loadByteValid || p.loadAbort then .refused .portNoLoad
  else o

/-- One clock cycle (R271, R275, R129). A `rst_req` is accepted in every cycle, is the only operation performed, and abandons
the operation in progress (70_reset_and_hazards.md R290). -/
def cycle (p : PortsIn) (m : PortState) : Host.Outcome PortState Fault Refusal :=
  if p.rstReq then .next ⟨m.core, .reset⟩
  else
    match m.phase with
    | .idle => idleCycle p m.core
    | .faulted => idleCycle p m.core
    | .reset => busyCycle p (.next (PortState.rest m.core.doReset))
    | .fetch => busyCycle p (fetchCycle m.core)
    | .decode => busyCycle p (decodeCycle m.core)
    | .exec i => busyCycle p (execCycle p.randIn i m.core)
    | .memseq o k => busyCycle p (memseqCycle o k m.core)
    | .clear => busyCycle p (clearCycle m.core)
    | .draw x y n r hit => busyCycle p (drawCycle x y n r hit m.core)
    | .load remaining next => if p.request then .refused .portBusy else loadCycle p remaining next m.core

/-- Clock cycles with the given inputs, one after another. -/
def cycles : List PortsIn → PortState → Host.Outcome PortState Fault Refusal
  | [], m => .next m
  | p :: ps, m =>
    match cycle p m with
    | .next m' => cycles ps m'
    | .fault c => .fault c
    | .refused e => .refused e

/-! ### The output ports (R275)

`busy` (`PortState.busy`) is what tells the host when it may read, so it is answered in every cycle. Every other output is read
between operations only: the host must not read "the framebuffer, DIRTY or any other state" while `busy` = 1
(70_reset_and_hazards.md R308), and a model gives such a read no meaning (93 U23). Before the first Reset or Load
every state element is unspecified (10_state.md R44) and Observe is refused (92 D19); the spec does not say what the
output wires carry then, and refusing to read them is the model's choice (log entry 21). -/

/-- A read of the output ports: refused while an operation is in progress, and before the first Reset or Load. -/
def PortState.whenReadable {α : Type} (m : PortState) (value : α) : Host.Outcome α Fault Refusal :=
  if m.busy then .refused .portBusy
  else if m.core.started then .next value
  else .refused .beforeFirstReset

/-- The output ports that hold a value of the state. `busy` is 0 whenever they may be read. -/
structure PortsOut where
  busy : Bool
  dirty : Bool
  fault : Bool
  faultCause : BitVec 3
  faultPc : Word
  loadErr : Bool
  /-- The observation port `obs_*`, encoded by P_OBS_MAP (R274; log entry 18). -/
  obs : List Bool
deriving DecidableEq, Repr

/-- The output ports of a state. -/
def PortState.outputs (m : PortState) : Host.Outcome PortsOut Fault Refusal :=
  m.whenReadable
    { busy := m.busy
      dirty := m.core.dirty
      fault := m.core.fault
      faultCause := m.core.fcause
      faultPc := m.core.fpc
      loadErr := m.core.loadErr
      obs := m.core.obsPort }

/-- `fb_rd_data` for `fb_rd_addr`. The port before the first Reset or Load is refused by the model's choice (log entry
21). -/
def PortState.readPixel (m : PortState) (addr : BitVec 11) : Host.Outcome Bool Fault Refusal :=
  m.whenReadable (m.core.framePort addr)

end Sys2Proof.Machine
end

