-- ==== Sys2Proof/Safety.lean ====
section
/-! DEFINITION. The terms claims are stated in: the end of a run (60_exceptions.md R277), the invariant of the machine's
states, and what it means that an instruction leaves a part of the state unchanged. -/

namespace Sys2Proof

open Sys2Proof.Machine

/-! ### The end of a run (60_exceptions.md R277) -/

/-- The instruction a Step of `s` would execute, if its fetch does not fault and the word is not the no-op. -/
def nextInstr (s : State) : Option Instr :=
  match s.fetch with
  | .error _ => none
  | .ok w =>
    match decode s.params w with
    | .instr i => some i
    | .noOp => none

/-- "A run has ended successfully at a state where FAULT = 0 and the word at PC decodes to 1NNN with
zext_16(NNN) = PC". -/
def endedSuccessfully (s : State) : Prop :=
  s.fault = false ∧ ∃ nnn, nextInstr s = some (.jpAddr nnn) ∧ zextAddr nnn = s.pc

/-- "A run has ended in failure at a state where FAULT = 1." -/
def endedInFailure (s : State) : Prop := s.fault = true

/-- A run that never needs undefined behaviour: it has not faulted (60_exceptions.md R250). -/
def Safe (s : State) : Prop := s.fault = false

/-! ### The invariant -/

/-- FCAUSE and FPC are 0 while FAULT = 0 (10_state.md R39), and FCAUSE is one of the five codes while FAULT = 1
(60_exceptions.md R251). -/
abbrev FaultStatusOk (s : State) : Prop :=
  if s.fault then 1 ≤ s.fcause.toNat ∧ s.fcause.toNat ≤ 5 else s.fcause = 0 ∧ s.fpc = 0

/-- The memory list is in its canonical form. -/
abbrev MemoryOk (s : State) : Prop := Memory.wf s.params.font s.mem

/-- The invariant every operation keeps: memory in its one canonical form, and the fault status consistent. -/
abbrev Inv (s : State) : Prop := MemoryOk s ∧ FaultStatusOk s

/-- The reserved region 0x000 to 0x1FF holds its reset contents (20_memory.md R65). -/
def ReservedIntact (s : State) : Prop := ∀ a, a < 0x200 → s.byteAt a = resetByte s.params.font a

/-! ### What an instruction leaves unchanged

`s` is the state an instruction starts from, after fetch and advance, and `t` the state it leaves. Each frame says that `t` with
the named elements put back IS `s`, so every other element of the state is covered, OPC, the fault
status and the parameters included; the memory is also compared byte by byte, through `byteAt`. -/

/-- Every general register outside `xs` is unchanged. -/
def RegsKeptBut (xs : List Reg) (s t : State) : Prop := ∀ x, x ∉ xs → t.reg x = s.reg x

/-- Every byte of memory is unchanged. -/
def BytesKept (s t : State) : Prop := ∀ a, t.byteAt a = s.byteAt a

/-- Only PC may change. -/
def OnlyPc (s t : State) : Prop := { t with pc := s.pc } = s ∧ BytesKept s t

/-- Only the registers `xs` may change; PC stays at the instruction's address plus 2. -/
def OnlyRegs (xs : List Reg) (s t : State) : Prop :=
  { t with v := s.v } = s ∧ RegsKeptBut xs s t ∧ BytesKept s t

/-- Only I may change. -/
def OnlyIndex (s t : State) : Prop := { t with i := s.i } = s ∧ BytesKept s t

/-- Only I and the registers `xs` may change. -/
def OnlyIndexAndRegs (xs : List Reg) (s t : State) : Prop :=
  { t with v := s.v, i := s.i } = s ∧ RegsKeptBut xs s t ∧ BytesKept s t

/-- Only PC, SP and the stack entry `k` may change. -/
def OnlyPcAndEntry (k : Nat) (s t : State) : Prop :=
  { t with pc := s.pc, sp := s.sp, stack := s.stack } = s ∧ BytesKept s t ∧
    ∀ j (h : j < 16), j ≠ k → t.stack[j] = s.stack[j]

/-- Only the registers `xs`, the framebuffer and DIRTY may change. -/
def OnlyDisplayAndRegs (xs : List Reg) (s t : State) : Prop :=
  { t with v := s.v, fb := s.fb, dirty := s.dirty } = s ∧ RegsKeptBut xs s t ∧ BytesKept s t

/-- Only the registers `xs` and the model's inputs and draws may change. -/
def OnlyRegsAndDraws (xs : List Reg) (s t : State) : Prop :=
  { t with v := s.v, randIn := s.randIn, draws := s.draws } = s ∧ RegsKeptBut xs s t ∧ BytesKept s t

/-- The effective address of byte `k` of an access through I (20_memory.md R67, 43_memory_index.md R196). Under
P_ADDR_POLICY = `fault` an access that does not fault is below 4096, so it is the same number. -/
def indexByte (s : State) (k : Nat) : Nat := s.indexAddr k % 4096

/-- `bs` stored at I, I + 1, … (20_memory.md R68): byte k is written where its address is 0x200 or above, or where
P_RESERVED_WRITE = `write`, and dropped elsewhere; every address that is none of these reads as before. -/
def StoredAtIndex (bs : List Byte) (s t : State) : Prop :=
  (∀ k (h : k < bs.length), t.byteAt (indexByte s k) =
      if 0x200 ≤ indexByte s k ∨ s.params.reservedWrite = .write then bs[k] else s.byteAt (indexByte s k)) ∧
  (∀ a, (∀ k, k < bs.length → a ≠ indexByte s k) → t.byteAt a = s.byteAt a)

/-! ### When an instruction executes normally, and what it leaves when it faults -/

/-- No address of an `n`-byte access through I exceeds 0xFFF, or addresses wrap (20_memory.md R67). -/
def AddressesOk (s : State) (n : Nat) : Prop :=
  s.params.addrPolicy = .wrap ∨ n = 0 ∨ s.i.toNat + n ≤ 0x1000

/-- No address of an `n`-byte store through I lies in the reserved region, or the region does not fault
(20_memory.md R68). -/
def ReservedOk (s : State) (n : Nat) : Prop :=
  s.params.reservedWrite ≠ .fault ∨ ∀ k, k < n → 0x200 ≤ indexByte s k

/-- The halted state of 60_exceptions.md R252 with cause code `code`, from the state `s` an instruction starts from: everything
as it was at the start of the step, PC and FPC at the instruction's address, OPC the fetched word. -/
def haltedWith (code : BitVec 3) (s : State) : State :=
  { s with pc := s.pc - 2, fault := true, fcause := code, fpc := s.pc - 2 }

/-- What the second assignment of a flag-writing instruction reads from register `r` when the flag it has just written is `c`
(42_alu.md R173): under `sequential` the new VF, otherwise the value before the instruction. -/
def operandSeen (s : State) (c : Byte) (r : Reg) : Byte :=
  if s.params.operandOrder = .sequential ∧ r = regVF then c else s.reg r

/-- The same state on an instance whose P_OPERAND_ORDER is `o`. -/
def withOrder (o : OperandOrder) (s : State) : State := { s with params := { s.params with operandOrder := o } }

/-- Pixel (px, py) is where a set bit of the `n`-row sprite at I lands when it is drawn at (V[x], V[y])
(44_display.md R213, R214). -/
def spriteCovers (s : State) (x y : Reg) (n : Nat) (px : Fin 64) (py : Fin 32) : Prop :=
  ∃ r < n, ∃ c < 8, (s.byteAt (indexByte s r)).getLsbD (7 - c) = true ∧
    match s.params.drawEdge with
    | .wrap => px.val = ((s.reg x).toNat % 64 + c) % 64 ∧ py.val = ((s.reg y).toNat % 32 + r) % 32
    | .clip => px.val = (s.reg x).toNat % 64 + c ∧ py.val = (s.reg y).toNat % 32 + r

/-! ### Which instructions write what -/

/-- The general registers an instruction may write (10_state.md R21, R22). -/
def writesReg (i : Instr) (r : Reg) : Prop :=
  match i with
  | .ldVxByte x _ => r = x
  | .addVxByte x _ => r = x
  | .ldVxVy x _ => r = x
  | .orVxVy x _ => r = x
  | .andVxVy x _ => r = x
  | .xorVxVy x _ => r = x
  | .addVxVy x _ => r = x ∨ r = regVF
  | .subVxVy x _ => r = x ∨ r = regVF
  | .shrVxVy x _ => r = x ∨ r = regVF
  | .subnVxVy x _ => r = x ∨ r = regVF
  | .shlVxVy x _ => r = x ∨ r = regVF
  | .rndVxByte x _ => r = x
  | .drwVxVyNibble _ _ _ => r = regVF
  | .ldVxDT x => r = x
  | .ldVxK x => r = x
  | .addIVx _ => r = regVF
  | .ldVxMem x => r ≤ x
  | .cls => False
  | .ret => False
  | .jpAddr _ => False
  | .callAddr _ => False
  | .seVxByte _ _ => False
  | .sneVxByte _ _ => False
  | .seVxVy _ _ => False
  | .sneVxVy _ _ => False
  | .ldIAddr _ => False
  | .jpV0Addr _ => False
  | .skpVx _ => False
  | .sknpVx _ => False
  | .ldDTVx _ => False
  | .ldSTVx _ => False
  | .ldFVx _ => False
  | .ldBVx _ => False
  | .ldMemVx _ => False

end Sys2Proof
end

