-- ==== Sys2Proof/Certificates/Slice0/Obligations.lean ====
section
/-! DEFINITION. The statements for the provers, from the numbered rules of spec/. -/

open Sys2Proof Sys2Proof.Machine

/-! ### Encoding (30_encoding.md) -/

/-- Under the default parameters one word of each of the 16 families 0 to F, written out from its pattern in R101,
decodes to the instruction the pattern names: 00E0, 1ABC, 2204, 3142, 4B24, 51C0, 6EFF, 7A02, 812E, 9340, A123,
BFED, C10F, D015, E19E and F165. (derived: 30_encoding.md R91, 30_encoding.md R101) -/
def Obligations.SampleWordsDecode : Prop :=
  decode Params.default 0x00E0 = .instr .cls ∧
  decode Params.default 0x1ABC = .instr (.jpAddr 0xABC) ∧
  decode Params.default 0x2204 = .instr (.callAddr 0x204) ∧
  decode Params.default 0x3142 = .instr (.seVxByte 1 0x42) ∧
  decode Params.default 0x4B24 = .instr (.sneVxByte 11 0x24) ∧
  decode Params.default 0x51C0 = .instr (.seVxVy 1 12) ∧
  decode Params.default 0x6EFF = .instr (.ldVxByte 14 0xFF) ∧
  decode Params.default 0x7A02 = .instr (.addVxByte 10 0x02) ∧
  decode Params.default 0x812E = .instr (.shlVxVy 1 2) ∧
  decode Params.default 0x9340 = .instr (.sneVxVy 3 4) ∧
  decode Params.default 0xA123 = .instr (.ldIAddr 0x123) ∧
  decode Params.default 0xBFED = .instr (.jpV0Addr 0xFED) ∧
  decode Params.default 0xC10F = .instr (.rndVxByte 1 0x0F) ∧
  decode Params.default 0xD015 = .instr (.drwVxVyNibble 0 1 5) ∧
  decode Params.default 0xE19E = .instr (.skpVx 1) ∧
  decode Params.default 0xF165 = .instr (.ldVxMem 1)

/-- For every parameter setting and every one of the 34 instructions with any operands, decoding its canonical word
gives the same instruction with the same operands. (derived: 30_encoding.md R93, 30_encoding.md R101) -/
def Obligations.DecodeInvertsEncode : Prop :=
  ∀ (p : Params) (i : Instr), decode p (encode i) = .instr i

/-- For every word under the default parameters: the decoder gives instruction i exactly when some row of the 34-row
opcode map matches the word and its fields spell i, it gives the no-op exactly when no row matches, and two rows
that match the same word are the same row. (derived: 30_encoding.md R93, 30_encoding.md R101, 30_encoding.md
R102) -/
def Obligations.DecodeIsTheOpcodeMap : Prop :=
  opcodeTable.length = 34 ∧
  (∀ (w : Word) (i : Instr), decode Params.default w = .instr i ↔
    ∃ r ∈ opcodeTable, w &&& r.mask = r.value ∧ r.build w = i) ∧
  (∀ w : Word, decode Params.default w = .noOp ↔ ∀ r ∈ opcodeTable, w &&& r.mask ≠ r.value) ∧
  (∀ (w : Word) (j k : Fin opcodeTable.length),
    w &&& opcodeTable[j].mask = opcodeTable[j].value →
    w &&& opcodeTable[k].mask = opcodeTable[k].value → j = k)

/-- Under the default parameters a word is the no-op exactly when it is in family 0 with a low byte other than 0xE0
and 0xEE, in family 8 with low nibble 8, 9, A, B, C, D or F, in family E with a low byte other than 0x9E and
0xA1, or in family F with a low byte outside the nine of R98. (stated: R102) -/
def Obligations.NoOpWordsByDefault : Prop :=
  ∀ w : Word, decode Params.default w = .noOp ↔
    (w.toNat / 4096 = 0x0 ∧ w.toNat % 256 ≠ 0xE0 ∧ w.toNat % 256 ≠ 0xEE) ∨
    (w.toNat / 4096 = 0x8 ∧ w.toNat % 16 ∈ [0x8, 0x9, 0xA, 0xB, 0xC, 0xD, 0xF]) ∨
    (w.toNat / 4096 = 0xE ∧ w.toNat % 256 ≠ 0x9E ∧ w.toNat % 256 ≠ 0xA1) ∨
    (w.toNat / 4096 = 0xF ∧
      w.toNat % 256 ∉ [0x07, 0x0A, 0x15, 0x18, 0x1E, 0x29, 0x33, 0x55, 0x65])

/-- For every parameter setting and word: in family 0 the field P_DECODE_0 names decides between CLS, RET and the
no-op; in family E the field P_DECODE_E names decides between SKP, SKNP and the no-op; in families 5 and 9 the
word is the two-register skip unless P_DECODE_5_9 is require_zero and the low nibble is not zero. (stated: R95,
R97, R99) -/
def Obligations.DecodeParametersSelect : Prop :=
  ∀ (p : Params) (w : Word),
    (w.toNat / 4096 = 0x0 → decode p w =
      (match p.decode0 with
        | .lowByte => if w.toNat % 256 = 0xE0 then .instr .cls
            else if w.toNat % 256 = 0xEE then .instr .ret else .noOp
        | .lowNibble => if w.toNat % 16 = 0x0 then .instr .cls
            else if w.toNat % 16 = 0xE then .instr .ret else .noOp
        | .fullWord => if w.toNat = 0x00E0 then .instr .cls
            else if w.toNat = 0x00EE then .instr .ret else .noOp)) ∧
    (w.toNat / 4096 = 0xE → decode p w =
      (match p.decodeE with
        | .lowByte => if w.toNat % 256 = 0x9E then .instr (.skpVx (fieldX w))
            else if w.toNat % 256 = 0xA1 then .instr (.sknpVx (fieldX w)) else .noOp
        | .lowNibble => if w.toNat % 16 = 0xE then .instr (.skpVx (fieldX w))
            else if w.toNat % 16 = 0x1 then .instr (.sknpVx (fieldX w)) else .noOp)) ∧
    (w.toNat / 4096 = 0x5 → decode p w =
      if p.decode59 = .requireZero ∧ w.toNat % 16 ≠ 0 then .noOp
      else .instr (.seVxVy (fieldX w) (fieldY w))) ∧
    (w.toNat / 4096 = 0x9 → decode p w =
      if p.decode59 = .requireZero ∧ w.toNat % 16 ≠ 0 then .noOp
      else .instr (.sneVxVy (fieldX w) (fieldY w)))

/-- The fields are the bits R91 names; every word of families 1, 2, 3, 4, 6, 7, A, B, C and D is that family's
instruction with the remaining bits as its fields; family 8 selects on the low nibble and family F on the low
byte, every other value being the no-op; all this under every parameter setting. (stated: R96, R98, R100) -/
def Obligations.FamiliesDecodeByTheirFields : Prop :=
  ∀ (p : Params) (w : Word),
    ((fieldX w).val = w.toNat / 256 % 16 ∧ (fieldY w).val = w.toNat / 16 % 16 ∧
      (fieldN w).toNat = w.toNat % 16 ∧ (fieldNN w).toNat = w.toNat % 256 ∧
      (fieldNNN w).toNat = w.toNat % 4096) ∧
    (w.toNat / 4096 = 0x1 → decode p w = .instr (.jpAddr (fieldNNN w))) ∧
    (w.toNat / 4096 = 0x2 → decode p w = .instr (.callAddr (fieldNNN w))) ∧
    (w.toNat / 4096 = 0x3 → decode p w = .instr (.seVxByte (fieldX w) (fieldNN w))) ∧
    (w.toNat / 4096 = 0x4 → decode p w = .instr (.sneVxByte (fieldX w) (fieldNN w))) ∧
    (w.toNat / 4096 = 0x6 → decode p w = .instr (.ldVxByte (fieldX w) (fieldNN w))) ∧
    (w.toNat / 4096 = 0x7 → decode p w = .instr (.addVxByte (fieldX w) (fieldNN w))) ∧
    (w.toNat / 4096 = 0xA → decode p w = .instr (.ldIAddr (fieldNNN w))) ∧
    (w.toNat / 4096 = 0xB → decode p w = .instr (.jpV0Addr (fieldNNN w))) ∧
    (w.toNat / 4096 = 0xC → decode p w = .instr (.rndVxByte (fieldX w) (fieldNN w))) ∧
    (w.toNat / 4096 = 0xD → decode p w = .instr (.drwVxVyNibble (fieldX w) (fieldY w) (fieldN w))) ∧
    (w.toNat / 4096 = 0x8 → decode p w =
      match w.toNat % 16 with
      | 0x0 => .instr (.ldVxVy (fieldX w) (fieldY w))
      | 0x1 => .instr (.orVxVy (fieldX w) (fieldY w))
      | 0x2 => .instr (.andVxVy (fieldX w) (fieldY w))
      | 0x3 => .instr (.xorVxVy (fieldX w) (fieldY w))
      | 0x4 => .instr (.addVxVy (fieldX w) (fieldY w))
      | 0x5 => .instr (.subVxVy (fieldX w) (fieldY w))
      | 0x6 => .instr (.shrVxVy (fieldX w) (fieldY w))
      | 0x7 => .instr (.subnVxVy (fieldX w) (fieldY w))
      | 0xE => .instr (.shlVxVy (fieldX w) (fieldY w))
      | _ => .noOp) ∧
    (w.toNat / 4096 = 0xF → decode p w =
      match w.toNat % 256 with
      | 0x07 => .instr (.ldVxDT (fieldX w))
      | 0x0A => .instr (.ldVxK (fieldX w))
      | 0x15 => .instr (.ldDTVx (fieldX w))
      | 0x18 => .instr (.ldSTVx (fieldX w))
      | 0x1E => .instr (.addIVx (fieldX w))
      | 0x29 => .instr (.ldFVx (fieldX w))
      | 0x33 => .instr (.ldBVx (fieldX w))
      | 0x55 => .instr (.ldMemVx (fieldX w))
      | 0x65 => .instr (.ldVxMem (fieldX w))
      | _ => .noOp)

/-- A source line names instruction i exactly when it is the spelling of i with i's own operand values, so an
operand out of its field's range is refused and never truncated; and the spelling of i assembles to the encoding
of i. (derived: 30_encoding.md R105, 30_encoding.md R106) -/
def Obligations.SourceLineNamesItsInstruction : Prop :=
  (∀ (l : SourceLine) (i : Instr), l.instr? = some i ↔ l = i.toSource) ∧
  (∀ i : Instr, assemble i.toSource = some (encode i))

/-! ### The step (40_step_cycle.md) -/

/-- On a started CORE that is not halted, when the fetch gives word w and w decodes to instruction i, the step is
exec of i on the state with OPC = w and PC advanced by 2. (derived: 40_step_cycle.md R122, 40_step_cycle.md
R123, 40_step_cycle.md R124, 40_step_cycle.md R128) -/
def Obligations.StepRunsDecodedInstruction : Prop :=
  ∀ (s : State) (w : Word) (i : Instr), s.started = true → s.fault = false →
    s.fetch = .ok w → decode s.params w = .instr i →
    step s = exec i { s with opc := w, pc := s.pc + 2 }

/-- On a started CORE that is not halted, when the fetched word w decodes to the no-op, the step leaves OPC = w and
PC + 2 and changes nothing else, and raises no fault. (stated: R127) -/
def Obligations.StepOfNoOpOnlyAdvances : Prop :=
  ∀ (s : State) (w : Word), s.started = true → s.fault = false →
    s.fetch = .ok w → decode s.params w = .noOp →
    step s = .next { s with opc := w, pc := s.pc + 2 }

/-- Under wrap the fetched word is the byte at PC mod 4096 followed by the byte at (PC + 1) mod 4096; under fault
with PC at most 0xFFE it is the bytes at PC and PC + 1; under fault with PC above 0xFFE a step of a started CORE
that is not halted halts with ADDRESS_RANGE, FPC = PC, and nothing else changed, OPC included. A step of a
started CORE that is not halted and fetches w leaves OPC = w. (stated: R122) -/
def Obligations.FetchIsBigEndianUnderPolicy : Prop :=
  ∀ s : State,
    (s.params.addrPolicy = .wrap → ∃ w : Word, s.fetch = .ok w ∧
      w.toNat = (s.byteAt (s.pc.toNat % 4096)).toNat * 256 + (s.byteAt ((s.pc.toNat + 1) % 4096)).toNat) ∧
    (s.params.addrPolicy = .fault → s.pc.toNat ≤ 0xFFE → ∃ w : Word, s.fetch = .ok w ∧
      w.toNat = (s.byteAt s.pc.toNat).toNat * 256 + (s.byteAt (s.pc.toNat + 1)).toNat) ∧
    (s.params.addrPolicy = .fault → s.pc.toNat > 0xFFE → s.started = true → s.fault = false →
      step s = .next { s with fault := true, fcause := 4, fpc := s.pc }) ∧
    (∀ (w : Word) (t : State), s.started = true → s.fault = false → s.fetch = .ok w → step s = .next t →
      t.opc = w)

/-- In every state after the first Reset or Load, a step answers a next state: there is no machine stop and no
refusal. (derived: 30_encoding.md R103, 40_step_cycle.md R128, 60_exceptions.md R250) -/
def Obligations.StartedStepAnswersNext : Prop :=
  ∀ s : State, s.started = true → ∃ t, step s = .next t ∧ t.started = true

/-- While no Reset or Load has happened since power-on, Reset and Load answer a started state, and every other
operation, and the machine's step, is refused under the name beforeFirstReset. R44 and R298 name Step, Tick,
WriteKeys and ClearDirty; that Observe is refused with them is no part of these rules: it is the model's choice
(log entry 8), after 92 D19. (derived: 10_state.md R44, 70_reset_and_hazards.md R290, 70_reset_and_hazards.md
R298, 92_eei_decisions.md D19) -/
def Obligations.RefusedBeforeFirstReset : Prop :=
  ∀ (s : State) (op : HostOp), s.started = false →
    step s = .refused .beforeFirstReset ∧
    ((op = .reset ∨ ∃ bytes ok, op = .load bytes ok) → ∃ t, perform op s = .next t ∧ t.started = true) ∧
    (op ≠ .reset → (∀ bytes ok, op ≠ .load bytes ok) → perform op s = .refused .beforeFirstReset)

/-! ### Control transfer (41_control_flow.md) -/

/-- JP addr completes with PC = NNN, and JP V0, addr with PC = V0 + NNN, exactly; nothing else changes. (stated:
R141, R143) -/
def Obligations.JumpsSetPc : Prop :=
  ∀ (s : State) (nnn : Addr),
    (∃ t, exec (.jpAddr nnn) s = .next t ∧ t.pc.toNat = nnn.toNat ∧ OnlyPc s t) ∧
    (∃ t, exec (.jpV0Addr nnn) s = .next t ∧ t.pc.toNat = (s.reg 0).toNat + nnn.toNat ∧ OnlyPc s t)

/-- With SP below 16, CALL completes with STACK[SP] = PC (the advanced PC), SP + 1 and PC = NNN, every other stack
entry and everything else kept; with SP = 16 it halts with cause 1 and nothing changed but the fault registers
and PC. (stated: R142) -/
def Obligations.CallPushesReturnAddress : Prop :=
  ∀ (s : State) (nnn : Addr),
    (∀ h : s.sp.val < 16, ∃ t, exec (.callAddr nnn) s = .next t ∧ t.stack[s.sp.val] = s.pc ∧
      t.sp.val = s.sp.val + 1 ∧ t.pc.toNat = nnn.toNat ∧ OnlyPcAndEntry s.sp.val s t) ∧
    (s.sp.val = 16 → exec (.callAddr nnn) s = .next (haltedWith 1 s))

/-- With SP above 0, RET completes with SP - 1 and PC = STACK[SP - 1], every stack entry and everything else kept;
with SP = 0 it halts with cause 2 and nothing changed but the fault registers and PC. (stated: R140) -/
def Obligations.RetPopsReturnAddress : Prop :=
  ∀ s : State,
    (∀ h : 0 < s.sp.val, ∃ t, exec .ret s = .next t ∧ t.sp.val = s.sp.val - 1 ∧
      t.pc = s.stack[s.sp.val - 1] ∧ t.stack = s.stack ∧ OnlyPcAndEntry 16 s t) ∧
    (s.sp.val = 0 → exec .ret s = .next (haltedWith 2 s))

/-- When a CALL completes without a fault, a RET executed from the state it leaves, whatever PC is by then,
completes with PC = the CALL's address + 2 and SP as before the CALL. (derived: 41_control_flow.md R140,
41_control_flow.md R142, 41_control_flow.md R149) -/
def Obligations.RetUndoesCall : Prop :=
  ∀ (s t : State) (nnn : Addr) (pc opc : Word), s.sp.val < 16 → exec (.callAddr nnn) s = .next t →
    ∃ u, exec .ret { t with pc := pc, opc := opc } = .next u ∧ u.pc = s.pc ∧ u.sp = s.sp ∧ u.v = s.v ∧ u.mem = s.mem

/-- SE and SNE with an immediate and with two registers complete with PC + 2 when the comparison holds and PC
unchanged otherwise; nothing else changes. (stated: R144, R145, R146, R147) -/
def Obligations.RegisterSkips : Prop :=
  ∀ (s : State) (x y : Reg) (nn : Byte),
    (∃ t, exec (.seVxByte x nn) s = .next t ∧ OnlyPc s t ∧
      t.pc.toNat = if (s.reg x).toNat = nn.toNat then (s.pc.toNat + 2) % 65536 else s.pc.toNat) ∧
    (∃ t, exec (.sneVxByte x nn) s = .next t ∧ OnlyPc s t ∧
      t.pc.toNat = if (s.reg x).toNat ≠ nn.toNat then (s.pc.toNat + 2) % 65536 else s.pc.toNat) ∧
    (∃ t, exec (.seVxVy x y) s = .next t ∧ OnlyPc s t ∧
      t.pc.toNat = if (s.reg x).toNat = (s.reg y).toNat then (s.pc.toNat + 2) % 65536 else s.pc.toNat) ∧
    (∃ t, exec (.sneVxVy x y) s = .next t ∧ OnlyPc s t ∧
      t.pc.toNat = if (s.reg x).toNat ≠ (s.reg y).toNat then (s.pc.toNat + 2) % 65536 else s.pc.toNat)

/-- Under wrap, or with V[X] at most 15, SKP and SKNP complete with PC + 2 exactly when key V[X] mod 16 is pressed
or not pressed, nothing else changed; under fault with V[X] above 15 both halt with cause 5. (stated: R230,
R231, R236) -/
def Obligations.KeySkips : Prop :=
  ∀ (s : State) (x : Reg),
    (s.params.keyIndex = .wrap ∨ (s.reg x).toNat ≤ 15 →
      (∃ t, exec (.skpVx x) s = .next t ∧ OnlyPc s t ∧
        t.pc = if s.key[(s.reg x).toNat % 16] = true then s.pc + 2 else s.pc) ∧
      (∃ t, exec (.sknpVx x) s = .next t ∧ OnlyPc s t ∧
        t.pc = if s.key[(s.reg x).toNat % 16] = false then s.pc + 2 else s.pc)) ∧
    (s.params.keyIndex = .fault → (s.reg x).toNat > 15 →
      exec (.skpVx x) s = .next (haltedWith 5 s) ∧ exec (.sknpVx x) s = .next (haltedWith 5 s))

/-! ### Register loads and the ALU (42_alu.md) -/

/-- LD Vx, byte, LD Vx, Vy, OR, AND and XOR complete with V[X] the immediate, the copy or the bitwise result; every
other register, VF included, and everything else is kept. (stated: R161, R163, R164, R165, R166) -/
def Obligations.LoadAndLogicResults : Prop :=
  ∀ (s : State) (x y : Reg) (nn : Byte),
    (∃ t, exec (.ldVxByte x nn) s = .next t ∧ t.reg x = nn ∧ OnlyRegs [x] s t) ∧
    (∃ t, exec (.ldVxVy x y) s = .next t ∧ t.reg x = s.reg y ∧ OnlyRegs [x] s t) ∧
    (∃ t, exec (.orVxVy x y) s = .next t ∧ OnlyRegs [x] s t ∧
      ∀ k < 8, (t.reg x).getLsbD k = ((s.reg x).getLsbD k || (s.reg y).getLsbD k)) ∧
    (∃ t, exec (.andVxVy x y) s = .next t ∧ OnlyRegs [x] s t ∧
      ∀ k < 8, (t.reg x).getLsbD k = ((s.reg x).getLsbD k && (s.reg y).getLsbD k)) ∧
    (∃ t, exec (.xorVxVy x y) s = .next t ∧ OnlyRegs [x] s t ∧
      ∀ k < 8, (t.reg x).getLsbD k = ((s.reg x).getLsbD k ^^ (s.reg y).getLsbD k))

/-- ADD Vx, byte completes with V[X] = (V[X] + NN) mod 256; every other register, VF included, and everything else
is kept. (stated: R162) -/
def Obligations.AddImmediateResult : Prop :=
  ∀ (s : State) (x : Reg) (nn : Byte), ∃ t, exec (.addVxByte x nn) s = .next t ∧
    (t.reg x).toNat = ((s.reg x).toNat + nn.toNat) % 256 ∧ OnlyRegs [x] s t

/-- ADD Vx, Vy completes with the carry (V[X] + V[Y] > 255) in VF when X is not F, and V[X] the sum modulo 256 of
the operands the second assignment reads; nothing else changes. Under sequential the second assignment reads the
new VF where X or Y is F; under latched it reads the old one. When X is F the result overwrites the flag.
(stated: R167) -/
def Obligations.AddWithCarryResult : Prop :=
  ∀ (s : State) (x y : Reg), ∃ t, exec (.addVxVy x y) s = .next t ∧ OnlyRegs [x, regVF] s t ∧
    let c : Byte := if (s.reg x).toNat + (s.reg y).toNat > 255 then 1 else 0
    (t.reg x).toNat = ((operandSeen s c x).toNat + (operandSeen s c y).toNat) % 256 ∧
    (x ≠ regVF → t.reg regVF = c)

/-- SUB completes with VF = (V[X] at least V[Y]) when X is not F and V[X] = (V[X] - V[Y]) mod 256; SUBN with VF =
(V[Y] at least V[X]) and V[X] = (V[Y] - V[X]) mod 256; nothing else changes. Under sequential the second
assignment reads the new VF where X or Y is F; under latched it reads the old one. When X is F the result
overwrites the flag. (stated: R168, R170) -/
def Obligations.SubtractResults : Prop :=
  ∀ (s : State) (x y : Reg),
    (∃ t, exec (.subVxVy x y) s = .next t ∧ OnlyRegs [x, regVF] s t ∧
      let c : Byte := if (s.reg x).toNat ≥ (s.reg y).toNat then 1 else 0
      (t.reg x).toNat = (((operandSeen s c x).toNat : Int) - (operandSeen s c y).toNat) % 256 ∧
      (x ≠ regVF → t.reg regVF = c)) ∧
    (∃ t, exec (.subnVxVy x y) s = .next t ∧ OnlyRegs [x, regVF] s t ∧
      let c : Byte := if (s.reg y).toNat ≥ (s.reg x).toNat then 1 else 0
      (t.reg x).toNat = (((operandSeen s c y).toNat : Int) - (operandSeen s c x).toNat) % 256 ∧
      (x ≠ regVF → t.reg regVF = c))

/-- SHR completes with VF = V[Y] mod 2 when X is not F and V[X] = V[Y] / 2; SHL with VF = bit 7 of V[Y] and V[X] = 2
V[Y] mod 256; the source is V[Y], and nothing else changes. Under sequential the second assignment reads the new
VF where X or Y is F; under latched it reads the old one. When X is F the result overwrites the flag. (stated:
R169, R171) -/
def Obligations.ShiftResults : Prop :=
  ∀ (s : State) (x y : Reg),
    (∃ t, exec (.shrVxVy x y) s = .next t ∧ OnlyRegs [x, regVF] s t ∧
      let c : Byte := if (s.reg y).toNat % 2 = 1 then 1 else 0
      (t.reg x).toNat = (operandSeen s c y).toNat / 2 ∧ (x ≠ regVF → t.reg regVF = c)) ∧
    (∃ t, exec (.shlVxVy x y) s = .next t ∧ OnlyRegs [x, regVF] s t ∧
      let c : Byte := if (s.reg y).toNat ≥ 128 then 1 else 0
      (t.reg x).toNat = (operandSeen s c y).toNat * 2 % 256 ∧ (x ≠ regVF → t.reg regVF = c))

/-- For 8XY4, 8XY5, 8XY6, 8XY7, 8XYE and FX1E with X and Y other than F, the instruction gives the same state on an
instance with the other P_OPERAND_ORDER, but for that parameter. (derived: 42_alu.md R173) -/
def Obligations.OperandOrdersAgreeWithoutVF : Prop :=
  ∀ (s : State) (x y : Reg) (o : OperandOrder), x ≠ regVF → y ≠ regVF →
    ∀ i ∈ [Instr.addVxVy x y, .subVxVy x y, .shrVxVy x y, .subnVxVy x y, .shlVxVy x y, .addIVx x],
      ∃ t, exec i s = .next t ∧ exec i (withOrder o s) = .next (withOrder o t)

/-- CXNN completes with V[X] = RAND AND NN, RAND being the byte the host presents for the step or, when it presents
none, the next free value; every bit NN clears is 0 in V[X]; every other register and everything but the inputs
and draws is kept, a presented byte is used up, and otherwise the next CXNN reads another free value. The
statement holds for every free value. That a presented byte is used up, that the value is otherwise Config.rand
at the count of draws, and that the count grows by one are the model's choice (log entries 3 and 5). (derived:
42_alu.md R172, 42_alu.md R180) -/
def Obligations.RandomByteMasked : Prop :=
  ∀ (s : State) (x : Reg) (nn : Byte), ∃ t, exec (.rndVxByte x nn) s = .next t ∧
    OnlyRegsAndDraws [x] s t ∧ t.randIn = none ∧
    (∀ k, nn.getLsbD k = false → (t.reg x).getLsbD k = false) ∧
    (∀ r, s.randIn = some r → t.reg x = r &&& nn ∧ t.draws = s.draws) ∧
    (s.randIn = none → t.reg x = Config.rand s.draws &&& nn ∧ t.draws = s.draws + 1)

/-! ### Index register, loads and stores (43_memory_index.md) -/

/-- ANNN completes with I = NNN, and FX29 with I = 5 V[X], V[X] unmasked; nothing else changes. (stated: R190, R192) -/
def Obligations.LoadIndexResults : Prop :=
  ∀ (s : State) (nnn : Addr) (x : Reg),
    (∃ t, exec (.ldIAddr nnn) s = .next t ∧ t.i.toNat = nnn.toNat ∧ OnlyIndex s t) ∧
    (∃ t, exec (.ldFVx x) s = .next t ∧ t.i.toNat = (s.reg x).toNat * 5 ∧ OnlyIndex s t)

/-- FX1E completes with VF = 1 exactly when the exact sum I + V[X] exceeds 0xFFF, else 0, and I the sum modulo 65536
of I and the operand the second assignment reads: under sequential with X = F that operand is the new VF. Only I
and VF change. (stated: R191) -/
def Obligations.AddToIndexResult : Prop :=
  ∀ (s : State) (x : Reg), ∃ t, exec (.addIVx x) s = .next t ∧ OnlyIndexAndRegs [regVF] s t ∧
    let c : Byte := if s.i.toNat + (s.reg x).toNat > 0xFFF then 1 else 0
    t.reg regVF = c ∧ t.i.toNat = (s.i.toNat + (operandSeen s c x).toNat) % 65536

/-- When no address is out of range and none is reserved (or the parameters allow it), FX33 completes with the
hundreds, tens and ones of V[X] at I, I + 1, I + 2 and everything else, I and the registers included, kept; when
an address is out of range it halts with cause 4; when addresses are in range and a reserved one faults it halts
with cause 3; in both with memory unchanged. (stated: R193) -/
def Obligations.BcdStored : Prop :=
  ∀ (s : State) (x : Reg), MemoryOk s →
    (AddressesOk s 3 → ReservedOk s 3 → ∃ t, exec (.ldBVx x) s = .next t ∧ { t with mem := s.mem } = s ∧
      StoredAtIndex [BitVec.ofNat 8 ((s.reg x).toNat / 100), BitVec.ofNat 8 ((s.reg x).toNat / 10 % 10),
        BitVec.ofNat 8 ((s.reg x).toNat % 10)] s t) ∧
    (¬ AddressesOk s 3 → exec (.ldBVx x) s = .next (haltedWith 4 s)) ∧
    (AddressesOk s 3 → ¬ ReservedOk s 3 → exec (.ldBVx x) s = .next (haltedWith 3 s))

/-- When no address is out of range and none is reserved (or the parameters allow it), FX55 completes with V[k] at I
+ k for k = 0 to X, I + X + 1 in I, and everything else kept; when an address is out of range it halts with
cause 4; when addresses are in range and a reserved one faults it halts with cause 3; in both with memory and I
unchanged. (stated: R194) -/
def Obligations.RegistersStored : Prop :=
  ∀ (s : State) (x : Reg), MemoryOk s →
    (AddressesOk s (x.val + 1) → ReservedOk s (x.val + 1) → ∃ t, exec (.ldMemVx x) s = .next t ∧
      { t with mem := s.mem, i := s.i } = s ∧ t.i.toNat = (s.i.toNat + x.val + 1) % 65536 ∧
      StoredAtIndex (s.v.toList.take (x.val + 1)) s t) ∧
    (¬ AddressesOk s (x.val + 1) → exec (.ldMemVx x) s = .next (haltedWith 4 s)) ∧
    (AddressesOk s (x.val + 1) → ¬ ReservedOk s (x.val + 1) →
      exec (.ldMemVx x) s = .next (haltedWith 3 s))

/-- When no address is out of range, FX65 completes with V[k] the byte at I + k for k = 0 to X, I + X + 1 in I, and
every other register and everything else kept; when an address is out of range it halts with cause 4 and nothing
loaded. (stated: R195) -/
def Obligations.RegistersLoaded : Prop :=
  ∀ (s : State) (x : Reg),
    (AddressesOk s (x.val + 1) → ∃ t, exec (.ldVxMem x) s = .next t ∧
      OnlyIndexAndRegs ((List.finRange 16).filter (· ≤ x)) s t ∧
      (∀ k : Reg, k ≤ x → t.reg k = s.byteAt (indexByte s k.val)) ∧
      t.i.toNat = (s.i.toNat + x.val + 1) % 65536) ∧
    (¬ AddressesOk s (x.val + 1) → exec (.ldVxMem x) s = .next (haltedWith 4 s))

/-- When FX55 completes without a fault at addresses of 0x200 and above, then from its result with any registers, PC
and OPC and with I set back, FX65 completes with V0 to VX as they were stored and I advanced by X + 1. (derived:
43_memory_index.md R194, 43_memory_index.md R195, 90_conflicts.md C8) -/
def Obligations.StoreThenLoadRestoresRegisters : Prop :=
  ∀ (s t : State) (x : Reg) (v : Vector Byte 16) (pc opc : Word), MemoryOk s → AddressesOk s (x.val + 1) →
    (∀ k, k ≤ x.val → 0x200 ≤ indexByte s k) → exec (.ldMemVx x) s = .next t →
    ∃ u, exec (.ldVxMem x) { t with v := v, i := s.i, pc := pc, opc := opc } = .next u ∧
      (∀ k : Reg, k ≤ x → u.reg k = s.reg k) ∧ u.i.toNat = (s.i.toNat + x.val + 1) % 65536

/-- When FX55, with any X, or FX33 completes without a fault, a fetch at any PC the address policy admits gives a
word whose high byte is that at PC and whose low byte is that at PC + 1, each modulo 4096: a byte the
instruction wrote there, V[k] or digit k at I + k, and elsewhere, or where the write was dropped, the byte as it
was. So a fetch at I + k with k and k + 1 both stored gives V[k] V[k + 1]. (derived: 20_memory.md R66,
20_memory.md R74, 70_reset_and_hazards.md R303) -/
def Obligations.StoredWordIsFetched : Prop :=
  ∀ (s t : State) (x : Reg) (i : Instr) (bs : List Byte) (pc : Word), MemoryOk s →
    (i = .ldMemVx x ∧ bs = s.v.toList.take (x.val + 1)) ∨
      (i = .ldBVx x ∧ bs = [BitVec.ofNat 8 ((s.reg x).toNat / 100), BitVec.ofNat 8 ((s.reg x).toNat / 10 % 10),
        BitVec.ofNat 8 ((s.reg x).toNat % 10)]) →
    AddressesOk s bs.length → ReservedOk s bs.length → exec i s = .next t →
    s.params.addrPolicy = .wrap ∨ pc.toNat ≤ 0xFFE →
    ∃ hi lo, ({ t with pc := pc }).fetch = .ok (wordOfBytes hi lo) ∧
      (∀ k (h : k < bs.length), 0x200 ≤ indexByte s k ∨ s.params.reservedWrite = .write →
        (pc.toNat % 4096 = indexByte s k → hi = bs[k]) ∧ ((pc.toNat + 1) % 4096 = indexByte s k → lo = bs[k])) ∧
      ((∀ k, k < bs.length → pc.toNat % 4096 = indexByte s k →
          indexByte s k < 0x200 ∧ s.params.reservedWrite ≠ .write) → hi = s.byteAt (pc.toNat % 4096)) ∧
      ((∀ k, k < bs.length → (pc.toNat + 1) % 4096 = indexByte s k →
          indexByte s k < 0x200 ∧ s.params.reservedWrite ≠ .write) → lo = s.byteAt ((pc.toNat + 1) % 4096))

/-- If an instruction's next state reads differently at some address, the instruction is FX33 or FX55 and the
address is one of the bytes it stores to. (derived: 20_memory.md R61, 20_memory.md R68, 20_memory.md R70) -/
def Obligations.OnlyStoresWriteMemory : Prop :=
  ∀ (i : Instr) (s t : State) (a : Nat), MemoryOk s → exec i s = .next t → t.byteAt a ≠ s.byteAt a →
    ∃ x : Reg, (i = .ldBVx x ∧ ∃ k < 3, a = indexByte s k) ∨
      (i = .ldMemVx x ∧ ∃ k < x.val + 1, a = indexByte s k)

/-! ### Framebuffer (44_display.md) -/

/-- 00E0 completes with every pixel 0 and DIRTY = 1, VF and everything else kept. (stated: R211) -/
def Obligations.ClearBlanksTheScreen : Prop :=
  ∀ s : State, ∃ t, exec .cls s = .next t ∧ (∀ px py, t.pixel px py = false) ∧ t.dirty = true ∧
    OnlyDisplayAndRegs [] s t

/-- When its rows' addresses are in range, DXYN completes; a pixel changes exactly when a set bit of the sprite
lands on it under the edge policy; VF is 1 if some covered pixel was set, and otherwise 0, or unchanged when
P_DRAW_VF_CLEAR is false; DIRTY = 1; every other register, I, memory and everything else is kept. When an
address is out of range it halts with cause 4 and nothing drawn. Last clause: no two pixels of one sprite land
on the same framebuffer pixel under either policy; this is no rule of its own but the inference that R214 marks
as derived. (derived: 44_display.md R212, 44_display.md R214, 44_display.md R215) -/
def Obligations.DrawFlipsCoveredPixels : Prop :=
  ∀ (s : State) (x y : Reg) (n : Nibble),
    (AddressesOk s n.toNat → ∃ t, exec (.drwVxVyNibble x y n) s = .next t ∧
      (∀ px py, t.pixel px py ≠ s.pixel px py ↔ spriteCovers s x y n.toNat px py) ∧
      ((∃ px py, spriteCovers s x y n.toNat px py ∧ s.pixel px py = true) → t.reg regVF = 1) ∧
      ((∀ px py, spriteCovers s x y n.toNat px py → s.pixel px py = false) →
        t.reg regVF = if s.params.drawVfClear then 0 else s.reg regVF) ∧
      t.dirty = true ∧ OnlyDisplayAndRegs [regVF] s t) ∧
    (¬ AddressesOk s n.toNat → exec (.drwVxVyNibble x y n) s = .next (haltedWith 4 s)) ∧
    (∀ (e : DrawEdge) (x0 : Fin 64) (y0 : Fin 32) (c c' r r' : Nat), c < 8 → c' < 8 → r < 15 → r' < 15 →
      landing e x0 y0 c r ≠ none → landing e x0 y0 c r = landing e x0 y0 c' r' → c = c' ∧ r = r')

/-- When X and Y are not F and the rows are in range, the same DXYN executed again on the result gives the
framebuffer before the first, and its VF is 1 when the sprite covers some pixel that was unset before the first.
(derived: 44_display.md R212, 44_display.md R215, 95_test_vectors.md S3) -/
def Obligations.DrawingTwiceRestores : Prop :=
  ∀ (s t : State) (x y : Reg) (n : Nibble), x ≠ regVF → y ≠ regVF → AddressesOk s n.toNat →
    exec (.drwVxVyNibble x y n) s = .next t →
    ∃ u, exec (.drwVxVyNibble x y n) t = .next u ∧ u.fb = s.fb ∧
      ((∃ px py, spriteCovers s x y n.toNat px py ∧ s.pixel px py = false) → u.reg regVF = 1)

/-- A step of a CORE that is not halted leaves DIRTY = 1 if it was 1; if DIRTY goes from 0 to 1, the instruction
executed is 00E0 or DXYN and the step did not fault; and every step that executes 00E0, or DXYN without
faulting, leaves DIRTY = 1. (derived: 44_display.md R216, 10_state.md R37) -/
def Obligations.DirtySetOnlyByDisplay : Prop :=
  ∀ s t : State, s.started = true → s.fault = false → step s = .next t →
    (s.dirty = true → t.dirty = true) ∧
    (s.dirty = false → t.dirty = true → t.fault = false ∧
      (nextInstr s = some .cls ∨ ∃ x y n, nextInstr s = some (.drwVxVyNibble x y n))) ∧
    (t.fault = false → (nextInstr s = some .cls ∨ ∃ x y n, nextInstr s = some (.drwVxVyNibble x y n)) →
      t.dirty = true)

/-! ### Keys and timers (45_timers_keys.md) -/

/-- FX07 completes with V[X] = DT, FX15 with DT = V[X] and FX18 with ST = V[X]; nothing else changes. (stated: R232,
R234, R235) -/
def Obligations.TimerTransfers : Prop :=
  ∀ (s : State) (x : Reg),
    (∃ t, exec (.ldVxDT x) s = .next t ∧ t.reg x = s.dt ∧ OnlyRegs [x] s t) ∧
    (∃ t, exec (.ldDTVx x) s = .next t ∧ t.dt = s.reg x ∧ { t with dt := s.dt } = s ∧ BytesKept s t) ∧
    (∃ t, exec (.ldSTVx x) s = .next t ∧ t.st = s.reg x ∧ { t with st := s.st } = s ∧ BytesKept s t)

/-- With no key pressed, FX0A completes with PC - 2 and nothing else changed. With a key pressed it completes with
V[X] the number of a pressed key, the smallest one under lowest, and only V[X] (and, under any, the count of
draws) changed. The statement holds for every free choice. (stated: R233, R237) -/
def Obligations.KeyWaitResult : Prop :=
  ∀ (s : State) (x : Reg),
    ((∀ k : Fin 16, s.key[k] = false) → ∃ t, exec (.ldVxK x) s = .next t ∧ OnlyPc s t ∧ t.pc = s.pc - 2) ∧
    ((∃ k : Fin 16, s.key[k] = true) → ∃ t, exec (.ldVxK x) s = .next t ∧ OnlyRegsAndDraws [x] s t ∧
      t.randIn = s.randIn ∧ ∃ k : Fin 16, (t.reg x).toNat = k.val ∧ s.key[k] = true ∧
        (s.params.keySelect = .lowest → t.draws = s.draws ∧ ∀ j : Fin 16, j < k → s.key[j] = false))

/-- In a step of a CORE that is not halted: DT changes only if the instruction is FX15, ST only if it is FX18, SP
only if it is CALL or RET, and a stack entry only if it is CALL; so no step decrements a timer of its own.
(derived: 10_state.md R28, 10_state.md R30, 10_state.md R32, 10_state.md R33) -/
def Obligations.TimersAndStackWritersOnly : Prop :=
  ∀ s t : State, s.started = true → s.fault = false → step s = .next t →
    (t.dt ≠ s.dt → ∃ x, nextInstr s = some (.ldDTVx x) ∧ t.dt = s.reg x) ∧
    (t.st ≠ s.st → ∃ x, nextInstr s = some (.ldSTVx x) ∧ t.st = s.reg x) ∧
    (t.sp ≠ s.sp → nextInstr s = some .ret ∨ ∃ nnn, nextInstr s = some (.callAddr nnn)) ∧
    (t.stack ≠ s.stack → ∃ nnn, nextInstr s = some (.callAddr nnn))

/-- For any state and any other value of ST, the step of the state with that value answers the same next state, but
for ST itself, which is either kept in both or written with the same byte in both. (derived: 10_state.md R32) -/
def Obligations.SoundTimerIsNeverRead : Prop :=
  ∀ (s t : State) (b : Byte), step s = .next t →
    ∃ t', step { s with st := b } = .next t' ∧ { t' with st := t.st } = t ∧
      ((t.st = s.st ∧ t'.st = b) ∨ t'.st = t.st)

/-! ### Faults and whole-machine rules (60_exceptions.md, 10_state.md, 20_memory.md) -/

/-- When a step of a CORE that is not halted ends with FAULT = 1, every element is as it was before the step, but
for FAULT = 1, FCAUSE one of the codes 1 to 5, FPC = the PC before the step, and OPC, which is the fetched word,
or OPC as it was when the fetch itself faulted. (stated: R252) -/
def Obligations.FaultEntryIsPrecise : Prop :=
  ∀ s t : State, s.started = true → s.fault = false → step s = .next t → t.fault = true →
    t = { s with fault := true, fcause := t.fcause, fpc := s.pc, opc := t.opc } ∧
    1 ≤ t.fcause.toNat ∧ t.fcause.toNat ≤ 5 ∧
    (∀ w, s.fetch = .ok w → t.opc = w) ∧ ((∀ w, s.fetch ≠ .ok w) → t.opc = s.opc)

/-- From a state with FAULT = 0, an instruction's next state has FAULT = 1 exactly when the fault computed from SP,
I, the operand fields, V[X] and the policy parameters exists, and is then the state at the start of the
instruction halted with that fault's code; the fault computed does not change when memory, the framebuffer, the
timers, the keys, the other registers or PC change. (derived: 40_step_cycle.md R129, 60_exceptions.md R251,
60_exceptions.md R254) -/
def Obligations.FaultsAreKnownAtDecode : Prop :=
  (∀ (i : Instr) (s t : State), s.fault = false → exec i s = .next t →
    (faultOf i s = none ∧ t.fault = false) ∨ (∃ c, faultOf i s = some c ∧ t = haltedWith c.code s)) ∧
  (∀ (i : Instr) (s t : State), t.sp = s.sp → t.i = s.i → t.params = s.params →
    (∀ x : Reg, (i = .skpVx x ∨ i = .sknpVx x) → t.reg x = s.reg x) → faultOf i t = faultOf i s)

/-- On an instance whose address and key index policies are wrap, a step that faults leaves FCAUSE 1, 2 or 3: 1 only
when the instruction is CALL and SP = 16, 2 only when it is RET and SP = 0, 3 only when it is FX33 or FX55.
(derived: 60_exceptions.md R251) -/
def Obligations.DefaultFaultCauses : Prop :=
  ∀ s t : State, s.params.addrPolicy = .wrap → s.params.keyIndex = .wrap → s.started = true →
    s.fault = false → step s = .next t → t.fault = true →
    (t.fcause = 1 ∧ s.sp.val = 16 ∧ ∃ nnn, nextInstr s = some (.callAddr nnn)) ∨
    (t.fcause = 2 ∧ s.sp.val = 0 ∧ nextInstr s = some .ret) ∨
    (t.fcause = 3 ∧ ∃ x, nextInstr s = some (.ldBVx x) ∨ nextInstr s = some (.ldMemVx x))

/-- On a halted CORE a Step leaves every architectural element as it was; Tick, WriteKeys and ClearDirty complete
with their effect and keep FAULT, FCAUSE and FPC; Observe changes nothing; Reset and Load answer a state with
FAULT = 0. (stated: R253, R121) -/
def Obligations.HaltEndsOnlyByResetOrLoad : Prop :=
  ∀ (s : State), s.started = true → s.fault = true →
    step s = .next s ∧
    (∀ r, perform (.step r) s = .next { s with randIn := none }) ∧
    (∃ t, perform .tick s = .next t ∧ t.dt.toNat = s.dt.toNat - 1 ∧ t.st.toNat = s.st.toNat - 1 ∧
      { t with dt := s.dt, st := s.st } = s) ∧
    (∀ m : Word, ∃ t, perform (.writeKeys m) s = .next t ∧ (∀ k : Fin 16, t.key[k] = m.getLsbD k.val) ∧
      { t with key := s.key } = s) ∧
    (perform .clearDirty s = .next { s with dirty := false }) ∧
    (perform .observe s = .next s) ∧
    (∃ t, perform .reset s = .next t ∧ t.fault = false) ∧
    (∀ bytes ok, ∃ t, perform (.load bytes ok) s = .next t ∧ t.fault = false)

/-- From every state that meets the invariant, a step's next state meets it: the memory list is in its canonical
form inside 0x000 to 0xFFF, FCAUSE and FPC are 0 while FAULT = 0, and FCAUSE is one of the codes 1 to 5 while
FAULT = 1. (derived: 10_state.md R39, 20_memory.md R60, 60_exceptions.md R251) -/
def Obligations.StepKeepsInvariant : Prop :=
  ∀ s t : State, Inv s → step s = .next t → Inv t

/-- The reset state, with any parameters and any count of draws, meets the invariant of StepKeepsInvariant, and its
reserved region holds its reset contents. (derived: 70_reset_and_hazards.md R290, 20_memory.md R65) -/
def Obligations.ResetMeetsInvariant : Prop :=
  ∀ (p : Params) (n : Nat), Inv (State.resetOf p n) ∧ ReservedIntact (State.resetOf p n)

/-- From every state that meets the invariant, every host operation that answers a next state answers one that meets
it, and with the same policy parameters. (derived: 60_exceptions.md R270, 10_state.md R42, 10_state.md R39) -/
def Obligations.HostOperationsKeepInvariant : Prop :=
  ∀ (op : HostOp) (s t : State), Inv s → perform op s = .next t → Inv t ∧ t.params = s.params

/-- With P_RESERVED_WRITE fault or ignore, from a state whose memory is canonical and whose reserved region holds
its reset contents (the font at 0x000 to 0x04F and 0 to 0x1FF), every step's next state has the same region.
(derived: 20_memory.md R65, 20_memory.md R68) -/
def Obligations.ReservedRegionKeepsFont : Prop :=
  ∀ s t : State, s.params.reservedWrite ≠ .write → MemoryOk s → ReservedIntact s → step s = .next t →
    ReservedIntact t ∧ ∀ a, a < 0x200 → t.byteAt a = s.byteAt a

/-- Every step's next state has the key latch, LOAD_ERR, the parameters and the started mark of the state before;
and unless the step faults, FAULT, FCAUSE and FPC as before. (derived: 10_state.md R34, 10_state.md R39,
10_state.md R42, 10_state.md R45) -/
def Obligations.StepKeepsHostState : Prop :=
  ∀ s t : State, step s = .next t →
    t.key = s.key ∧ t.loadErr = s.loadErr ∧ t.params = s.params ∧ t.started = s.started ∧
    (t.fault = s.fault → t.fcause = s.fcause ∧ t.fpc = s.fpc) ∧ (s.fault = true → t.fault = true)

/-- If a general register differs after an instruction, R22 lists that instruction as a writer of that register:
V[X], VF as a flag, or V[0] to V[X] for FX65; I changes only by ANNN, FX1E, FX29, FX55 and FX65. (derived:
10_state.md R21, 10_state.md R22, 10_state.md R24) -/
def Obligations.RegistersWrittenAsListed : Prop :=
  ∀ (i : Instr) (s t : State), exec i s = .next t →
    (∀ r : Reg, t.reg r ≠ s.reg r → writesReg i r) ∧
    (t.i ≠ s.i → (∃ nnn, i = .ldIAddr nnn) ∨
      ∃ x, i = .addIVx x ∨ i = .ldFVx x ∨ i = .ldMemVx x ∨ i = .ldVxMem x)

/-! ### Host operations (60_exceptions.md, 70_reset_and_hazards.md) -/

/-- On a started CORE, Tick completes with DT and ST one less, floored at 0; WriteKeys(m) with KEY[k] = m[k] for
every k; ClearDirty with DIRTY = 0; each changes nothing else. (stated: R260, R272, R273) -/
def Obligations.TickAndHostWrites : Prop :=
  ∀ (s : State) (m : Word), s.started = true →
    (∃ t, perform .tick s = .next t ∧ t.dt.toNat = s.dt.toNat - 1 ∧ t.st.toNat = s.st.toNat - 1 ∧
      { t with dt := s.dt, st := s.st } = s ∧ BytesKept s t) ∧
    (∃ t, perform (.writeKeys m) s = .next t ∧ (∀ k : Fin 16, t.key[k] = m.getLsbD k.val) ∧
      { t with key := s.key } = s ∧ BytesKept s t) ∧
    (∃ t, perform .clearDirty s = .next t ∧ t.dirty = false ∧ { t with dirty := s.dirty } = s ∧ BytesKept s t)

/-- From every state, Reset completes with every V register, I, SP, the stack, both timers, the key latch, every
pixel, DIRTY, OPC, FAULT, FCAUSE, FPC and LOAD_ERR 0, PC = 0x200, the font's bytes at 0x000 to 0x04F and 0 at
0x050 to 0xFFF; and at the port level rst_req, accepted in every phase of every operation, leads to that same
state after some number of cycles without a request. (stated: R290) -/
def Obligations.ResetGivesResetState : Prop :=
  ∀ s : State, ∃ t, perform .reset s = .next t ∧
    (∀ (h : Phase) (p : PortsIn) (r : Byte), p.rstReq = true →
      ∃ n, cycles (p :: List.replicate n (PortsIn.quiet r)) ⟨s, h⟩ = .next (PortState.rest t)) ∧
    (∀ r, t.reg r = 0) ∧ t.i = 0 ∧ t.pc = 0x200 ∧ t.sp = 0 ∧ (∀ k : Fin 16, t.stack[k] = 0) ∧ t.dt = 0 ∧
    t.st = 0 ∧ (∀ k : Fin 16, t.key[k] = false) ∧ (∀ px py, t.pixel px py = false) ∧ t.dirty = false ∧
    t.opc = 0 ∧ t.fault = false ∧ t.fcause = 0 ∧ t.fpc = 0 ∧ t.loadErr = false ∧
    (∀ k : Fin 80, t.byteAt k.val = s.params.font[k]) ∧ (∀ a, 80 ≤ a → t.byteAt a = 0)

/-- From every state, a Load of at most 3584 readable bytes completes with byte n at 0x200 + n, every other address
at its reset contents, LOAD_ERR = 0 and every other element as after Reset; a longer or unreadable image
completes with the reset state but for LOAD_ERR = 1. (stated: R295, R297) -/
def Obligations.LoadPlacesImageOrFails : Prop :=
  ∀ (s : State) (bytes : List Byte) (ok : Bool), ∃ r t, perform .reset s = .next r ∧
    perform (.load bytes ok) s = .next t ∧
    (ok = true → bytes.length ≤ 3584 →
      (∀ n (h : n < bytes.length), t.byteAt (0x200 + n) = bytes[n]) ∧
      (∀ a, a < 0x200 ∨ 0x200 + bytes.length ≤ a → t.byteAt a = r.byteAt a) ∧
      t.loadErr = false ∧ { t with mem := r.mem } = r) ∧
    (ok = true → bytes = [] → t = r) ∧
    (ok = false ∨ 3584 < bytes.length → t = { r with loadErr := true })

/-- In a started state where a run has ended successfully (FAULT = 0 and the word at PC is a jump to PC), a step
answers the same state but for OPC, and a run has again ended successfully there. (derived: 60_exceptions.md
R277, 41_control_flow.md R141) -/
def Obligations.IdleSelfJumpChangesOnlyOpc : Prop :=
  ∀ s : State, s.started = true → endedSuccessfully s →
    ∃ w, step s = .next { s with opc := w } ∧ endedSuccessfully { s with opc := w }

/-! ### The port-level realisation (60_exceptions.md R271, R275; 40_step_cycle.md R129) -/

/-- On a started CORE that is not halted, a one-cycle step request followed by 20 cycles with no request and RAND
held brings the dispatch state machine of R129 from rest to rest with exactly the state the Step operation gives
with that RAND. The 20 cycles are the model's choice (log entry 10): cycle counts are not architectural.
(derived: 40_step_cycle.md R129, 60_exceptions.md R275, 70_reset_and_hazards.md R309) -/
def Obligations.PortStepRefinesStep : Prop :=
  ∀ (s : State) (r : Byte), s.started = true → s.fault = false →
    ∃ t, perform (.step r) s = .next t ∧
      cycles ({ PortsIn.quiet r with stepReq := true } :: List.replicate 20 (PortsIn.quiet r))
        (PortState.rest s) = .next (PortState.rest t)

/-- From rest, load_start with the length and then the image's bytes, one a cycle, end at rest in exactly the state
of the Load operation, for every image of at most 3584 bytes; a length above 3584 is rejected in its own cycle
with the state of a failed Load; and an abort after any proper prefix of the bytes gives the state of a failed
Load. How many cycles this takes is the model's choice (log entry 10). (derived: 70_reset_and_hazards.md R294,
70_reset_and_hazards.md R295, 60_exceptions.md R275) -/
def Obligations.PortLoadRefinesLoad : Prop :=
  ∀ (s : State) (bytes : List Byte),
    let start : Word → PortsIn := fun n => { PortsIn.quiet 0 with loadStart := true, loadLen := n }
    let send : Byte → PortsIn := fun b => { PortsIn.quiet 0 with loadByteValid := true, loadByte := b }
    let abort : PortsIn := { PortsIn.quiet 0 with loadAbort := true }
    (bytes.length ≤ 3584 → ∃ t, perform (.load bytes true) s = .next t ∧
      cycles (start (BitVec.ofNat 16 bytes.length) :: bytes.map send) (PortState.rest s) =
        .next (PortState.rest t)) ∧
    (∃ f, perform (.load bytes false) s = .next f ∧
      (∀ n : Word, 3584 < n.toNat → cycle (start n) (PortState.rest s) = .next (PortState.rest f)) ∧
      (∀ n : Word, bytes.length < n.toNat → n.toNat ≤ 3584 →
        cycles (start n :: (bytes.map send ++ [abort])) (PortState.rest s) = .next (PortState.rest f)))

/-- At rest: a cycle with rst_req performs Reset alone, whatever else is requested; without it, load_start alone is
begun; without either, WriteKeys, ClearDirty and Tick take effect in that order and a Step then begins from the
state they leave, unless the CORE is halted. How many cycles this takes is the model's choice (log entry 10).
(derived: 60_exceptions.md R271, 60_exceptions.md R275) -/
def Obligations.SameCycleRequestOrder : Prop :=
  ∀ (s : State) (p : PortsIn) (r : Byte), s.started = true → p.loadByteValid = false → p.loadAbort = false →
    (p.rstReq = true → ∃ t, perform .reset s = .next t ∧
      cycles [p, PortsIn.quiet r] (PortState.rest s) = .next (PortState.rest t)) ∧
    (p.rstReq = false → p.loadStart = true →
      cycle p (PortState.rest s) = cycle { PortsIn.quiet r with loadStart := true, loadLen := p.loadLen }
        (PortState.rest s)) ∧
    (p.rstReq = false → p.loadStart = false →
      ∃ t, performAll ((if p.keysWe then [HostOp.writeKeys p.keysIn] else []) ++
            (if p.dirtyClr then [HostOp.clearDirty] else []) ++ (if p.tickReq then [HostOp.tick] else [])) s =
          .next t ∧
        cycle p (PortState.rest s) = .next
          (if p.stepReq = true ∧ t.fault = false then ⟨{ t with randIn := none }, .fetch⟩
            else PortState.rest t))

/-! ### Observation (60_exceptions.md R274, R275) -/

/-- Observe changes nothing. While an operation is in progress the output ports and the framebuffer read are
refused. Between operations of a started CORE they show DIRTY, FAULT, FCAUSE, FPC and LOAD_ERR, the pixel at
column a mod 64 and row a / 64 for every framebuffer address a, and, when P_OBS_MAP names a bit for each wire of
the observation port, those bits. That a wire of the observation port carries one bit of the state is the
model's form of P_OBS_MAP (log entry 18). Before the first Reset or Load the ports are refused, which is the
model's choice (log entry 21). (derived: 60_exceptions.md R274, 60_exceptions.md R275, 70_reset_and_hazards.md
R308, 44_display.md R210) -/
def Obligations.OutputPortsReadBetweenOperations : Prop :=
  ∀ (m : PortState) (a : BitVec 11),
    (m.core.started = true → perform .observe m.core = .next m.core) ∧
    (m.busy = true → m.outputs = .refused .portBusy ∧ m.readPixel a = .refused .portBusy) ∧
    (m.busy = false → m.core.started = false →
      m.outputs = .refused .beforeFirstReset ∧ m.readPixel a = .refused .beforeFirstReset) ∧
    (m.busy = false → m.core.started = true →
      (∃ o, m.outputs = .next o ∧ o.busy = false ∧ o.dirty = m.core.dirty ∧ o.fault = m.core.fault ∧
        o.faultCause = m.core.fcause ∧ o.faultPc = m.core.fpc ∧ o.loadErr = m.core.loadErr ∧
        ∀ bits, m.core.params.obsMap = .wires bits → o.obs.length = bits.length ∧
          ∀ k (h : k < bits.length), o.obs[k]? = some (m.core.obsBit bits[k])) ∧
      ∃ px py, px.val = a.toNat % 64 ∧ py.val = a.toNat / 64 ∧ m.readPixel a = .next (m.core.pixel px py))

/-- Two states of one instance with canonical memory that agree on every observable bit are the same state but for
RAND's input, the count of draws and the started mark: the host can read every state element of 10_state.md and
every memory byte, and nothing else is state. The three fields left out are the model's own (log entries 3, 5
and 8). (derived: 60_exceptions.md R274, 10_state.md R20, 10_state.md R41) -/
def Obligations.EveryElementIsObservable : Prop :=
  ∀ s t : State, MemoryOk s → MemoryOk t → t.params = s.params → (∀ b : ObsBit, t.obsBit b = s.obsBit b) →
    t = { s with randIn := t.randIn, draws := t.draws, started := t.started }
end

