-- ==== Sys2Proof/Laws/State.lean ====
section
/-! SUPPORT. One lemma per field and named update of the state, so that no later proof unfolds a record update. -/

namespace Sys2Proof.Machine

section
variable (s : State) (x : Reg) (b : Byte)

@[simp] theorem State.setReg_v : (s.setReg x b).v = s.v.set x b := rfl
@[simp] theorem State.setReg_i : (s.setReg x b).i = s.i := rfl
@[simp] theorem State.setReg_pc : (s.setReg x b).pc = s.pc := rfl
@[simp] theorem State.setReg_sp : (s.setReg x b).sp = s.sp := rfl
@[simp] theorem State.setReg_stack : (s.setReg x b).stack = s.stack := rfl
@[simp] theorem State.setReg_dt : (s.setReg x b).dt = s.dt := rfl
@[simp] theorem State.setReg_st : (s.setReg x b).st = s.st := rfl
@[simp] theorem State.setReg_key : (s.setReg x b).key = s.key := rfl
@[simp] theorem State.setReg_fb : (s.setReg x b).fb = s.fb := rfl
@[simp] theorem State.setReg_dirty : (s.setReg x b).dirty = s.dirty := rfl
@[simp] theorem State.setReg_opc : (s.setReg x b).opc = s.opc := rfl
@[simp] theorem State.setReg_fault : (s.setReg x b).fault = s.fault := rfl
@[simp] theorem State.setReg_fcause : (s.setReg x b).fcause = s.fcause := rfl
@[simp] theorem State.setReg_fpc : (s.setReg x b).fpc = s.fpc := rfl
@[simp] theorem State.setReg_loadErr : (s.setReg x b).loadErr = s.loadErr := rfl
@[simp] theorem State.setReg_mem : (s.setReg x b).mem = s.mem := rfl
@[simp] theorem State.setReg_params : (s.setReg x b).params = s.params := rfl
@[simp] theorem State.setReg_randIn : (s.setReg x b).randIn = s.randIn := rfl
@[simp] theorem State.setReg_draws : (s.setReg x b).draws = s.draws := rfl
@[simp] theorem State.setReg_started : (s.setReg x b).started = s.started := rfl

end

section
variable (s : State) (a : Word)

@[simp] theorem State.setI_v : (s.setI a).v = s.v := rfl
@[simp] theorem State.setI_i : (s.setI a).i = a := rfl
@[simp] theorem State.setI_pc : (s.setI a).pc = s.pc := rfl
@[simp] theorem State.setI_sp : (s.setI a).sp = s.sp := rfl
@[simp] theorem State.setI_stack : (s.setI a).stack = s.stack := rfl
@[simp] theorem State.setI_dt : (s.setI a).dt = s.dt := rfl
@[simp] theorem State.setI_st : (s.setI a).st = s.st := rfl
@[simp] theorem State.setI_key : (s.setI a).key = s.key := rfl
@[simp] theorem State.setI_fb : (s.setI a).fb = s.fb := rfl
@[simp] theorem State.setI_dirty : (s.setI a).dirty = s.dirty := rfl
@[simp] theorem State.setI_opc : (s.setI a).opc = s.opc := rfl
@[simp] theorem State.setI_fault : (s.setI a).fault = s.fault := rfl
@[simp] theorem State.setI_fcause : (s.setI a).fcause = s.fcause := rfl
@[simp] theorem State.setI_fpc : (s.setI a).fpc = s.fpc := rfl
@[simp] theorem State.setI_loadErr : (s.setI a).loadErr = s.loadErr := rfl
@[simp] theorem State.setI_mem : (s.setI a).mem = s.mem := rfl
@[simp] theorem State.setI_params : (s.setI a).params = s.params := rfl
@[simp] theorem State.setI_randIn : (s.setI a).randIn = s.randIn := rfl
@[simp] theorem State.setI_draws : (s.setI a).draws = s.draws := rfl
@[simp] theorem State.setI_started : (s.setI a).started = s.started := rfl

end

section
variable (s : State) (a : Word)

@[simp] theorem State.setPc_v : (s.setPc a).v = s.v := rfl
@[simp] theorem State.setPc_i : (s.setPc a).i = s.i := rfl
@[simp] theorem State.setPc_pc : (s.setPc a).pc = a := rfl
@[simp] theorem State.setPc_sp : (s.setPc a).sp = s.sp := rfl
@[simp] theorem State.setPc_stack : (s.setPc a).stack = s.stack := rfl
@[simp] theorem State.setPc_dt : (s.setPc a).dt = s.dt := rfl
@[simp] theorem State.setPc_st : (s.setPc a).st = s.st := rfl
@[simp] theorem State.setPc_key : (s.setPc a).key = s.key := rfl
@[simp] theorem State.setPc_fb : (s.setPc a).fb = s.fb := rfl
@[simp] theorem State.setPc_dirty : (s.setPc a).dirty = s.dirty := rfl
@[simp] theorem State.setPc_opc : (s.setPc a).opc = s.opc := rfl
@[simp] theorem State.setPc_fault : (s.setPc a).fault = s.fault := rfl
@[simp] theorem State.setPc_fcause : (s.setPc a).fcause = s.fcause := rfl
@[simp] theorem State.setPc_fpc : (s.setPc a).fpc = s.fpc := rfl
@[simp] theorem State.setPc_loadErr : (s.setPc a).loadErr = s.loadErr := rfl
@[simp] theorem State.setPc_mem : (s.setPc a).mem = s.mem := rfl
@[simp] theorem State.setPc_params : (s.setPc a).params = s.params := rfl
@[simp] theorem State.setPc_randIn : (s.setPc a).randIn = s.randIn := rfl
@[simp] theorem State.setPc_draws : (s.setPc a).draws = s.draws := rfl
@[simp] theorem State.setPc_started : (s.setPc a).started = s.started := rfl

end

section
variable (s : State) (b : Byte)

@[simp] theorem State.setDt_v : (s.setDt b).v = s.v := rfl
@[simp] theorem State.setDt_i : (s.setDt b).i = s.i := rfl
@[simp] theorem State.setDt_pc : (s.setDt b).pc = s.pc := rfl
@[simp] theorem State.setDt_sp : (s.setDt b).sp = s.sp := rfl
@[simp] theorem State.setDt_stack : (s.setDt b).stack = s.stack := rfl
@[simp] theorem State.setDt_dt : (s.setDt b).dt = b := rfl
@[simp] theorem State.setDt_st : (s.setDt b).st = s.st := rfl
@[simp] theorem State.setDt_key : (s.setDt b).key = s.key := rfl
@[simp] theorem State.setDt_fb : (s.setDt b).fb = s.fb := rfl
@[simp] theorem State.setDt_dirty : (s.setDt b).dirty = s.dirty := rfl
@[simp] theorem State.setDt_opc : (s.setDt b).opc = s.opc := rfl
@[simp] theorem State.setDt_fault : (s.setDt b).fault = s.fault := rfl
@[simp] theorem State.setDt_fcause : (s.setDt b).fcause = s.fcause := rfl
@[simp] theorem State.setDt_fpc : (s.setDt b).fpc = s.fpc := rfl
@[simp] theorem State.setDt_loadErr : (s.setDt b).loadErr = s.loadErr := rfl
@[simp] theorem State.setDt_mem : (s.setDt b).mem = s.mem := rfl
@[simp] theorem State.setDt_params : (s.setDt b).params = s.params := rfl
@[simp] theorem State.setDt_randIn : (s.setDt b).randIn = s.randIn := rfl
@[simp] theorem State.setDt_draws : (s.setDt b).draws = s.draws := rfl
@[simp] theorem State.setDt_started : (s.setDt b).started = s.started := rfl

end

section
variable (s : State) (b : Byte)

@[simp] theorem State.setSt_v : (s.setSt b).v = s.v := rfl
@[simp] theorem State.setSt_i : (s.setSt b).i = s.i := rfl
@[simp] theorem State.setSt_pc : (s.setSt b).pc = s.pc := rfl
@[simp] theorem State.setSt_sp : (s.setSt b).sp = s.sp := rfl
@[simp] theorem State.setSt_stack : (s.setSt b).stack = s.stack := rfl
@[simp] theorem State.setSt_dt : (s.setSt b).dt = s.dt := rfl
@[simp] theorem State.setSt_st : (s.setSt b).st = b := rfl
@[simp] theorem State.setSt_key : (s.setSt b).key = s.key := rfl
@[simp] theorem State.setSt_fb : (s.setSt b).fb = s.fb := rfl
@[simp] theorem State.setSt_dirty : (s.setSt b).dirty = s.dirty := rfl
@[simp] theorem State.setSt_opc : (s.setSt b).opc = s.opc := rfl
@[simp] theorem State.setSt_fault : (s.setSt b).fault = s.fault := rfl
@[simp] theorem State.setSt_fcause : (s.setSt b).fcause = s.fcause := rfl
@[simp] theorem State.setSt_fpc : (s.setSt b).fpc = s.fpc := rfl
@[simp] theorem State.setSt_loadErr : (s.setSt b).loadErr = s.loadErr := rfl
@[simp] theorem State.setSt_mem : (s.setSt b).mem = s.mem := rfl
@[simp] theorem State.setSt_params : (s.setSt b).params = s.params := rfl
@[simp] theorem State.setSt_randIn : (s.setSt b).randIn = s.randIn := rfl
@[simp] theorem State.setSt_draws : (s.setSt b).draws = s.draws := rfl
@[simp] theorem State.setSt_started : (s.setSt b).started = s.started := rfl

end

section
variable (s : State) (f : Frame)

@[simp] theorem State.setFb_v : (s.setFb f).v = s.v := rfl
@[simp] theorem State.setFb_i : (s.setFb f).i = s.i := rfl
@[simp] theorem State.setFb_pc : (s.setFb f).pc = s.pc := rfl
@[simp] theorem State.setFb_sp : (s.setFb f).sp = s.sp := rfl
@[simp] theorem State.setFb_stack : (s.setFb f).stack = s.stack := rfl
@[simp] theorem State.setFb_dt : (s.setFb f).dt = s.dt := rfl
@[simp] theorem State.setFb_st : (s.setFb f).st = s.st := rfl
@[simp] theorem State.setFb_key : (s.setFb f).key = s.key := rfl
@[simp] theorem State.setFb_fb : (s.setFb f).fb = f := rfl
@[simp] theorem State.setFb_dirty : (s.setFb f).dirty = s.dirty := rfl
@[simp] theorem State.setFb_opc : (s.setFb f).opc = s.opc := rfl
@[simp] theorem State.setFb_fault : (s.setFb f).fault = s.fault := rfl
@[simp] theorem State.setFb_fcause : (s.setFb f).fcause = s.fcause := rfl
@[simp] theorem State.setFb_fpc : (s.setFb f).fpc = s.fpc := rfl
@[simp] theorem State.setFb_loadErr : (s.setFb f).loadErr = s.loadErr := rfl
@[simp] theorem State.setFb_mem : (s.setFb f).mem = s.mem := rfl
@[simp] theorem State.setFb_params : (s.setFb f).params = s.params := rfl
@[simp] theorem State.setFb_randIn : (s.setFb f).randIn = s.randIn := rfl
@[simp] theorem State.setFb_draws : (s.setFb f).draws = s.draws := rfl
@[simp] theorem State.setFb_started : (s.setFb f).started = s.started := rfl

end

section
variable (s : State) (d : Bool)

@[simp] theorem State.setDirty_v : (s.setDirty d).v = s.v := rfl
@[simp] theorem State.setDirty_i : (s.setDirty d).i = s.i := rfl
@[simp] theorem State.setDirty_pc : (s.setDirty d).pc = s.pc := rfl
@[simp] theorem State.setDirty_sp : (s.setDirty d).sp = s.sp := rfl
@[simp] theorem State.setDirty_stack : (s.setDirty d).stack = s.stack := rfl
@[simp] theorem State.setDirty_dt : (s.setDirty d).dt = s.dt := rfl
@[simp] theorem State.setDirty_st : (s.setDirty d).st = s.st := rfl
@[simp] theorem State.setDirty_key : (s.setDirty d).key = s.key := rfl
@[simp] theorem State.setDirty_fb : (s.setDirty d).fb = s.fb := rfl
@[simp] theorem State.setDirty_dirty : (s.setDirty d).dirty = d := rfl
@[simp] theorem State.setDirty_opc : (s.setDirty d).opc = s.opc := rfl
@[simp] theorem State.setDirty_fault : (s.setDirty d).fault = s.fault := rfl
@[simp] theorem State.setDirty_fcause : (s.setDirty d).fcause = s.fcause := rfl
@[simp] theorem State.setDirty_fpc : (s.setDirty d).fpc = s.fpc := rfl
@[simp] theorem State.setDirty_loadErr : (s.setDirty d).loadErr = s.loadErr := rfl
@[simp] theorem State.setDirty_mem : (s.setDirty d).mem = s.mem := rfl
@[simp] theorem State.setDirty_params : (s.setDirty d).params = s.params := rfl
@[simp] theorem State.setDirty_randIn : (s.setDirty d).randIn = s.randIn := rfl
@[simp] theorem State.setDirty_draws : (s.setDirty d).draws = s.draws := rfl
@[simp] theorem State.setDirty_started : (s.setDirty d).started = s.started := rfl

end

section
variable (s : State) (a : Nat) (b : Byte)

@[simp] theorem State.setByte_v : (s.setByte a b).v = s.v := rfl
@[simp] theorem State.setByte_i : (s.setByte a b).i = s.i := rfl
@[simp] theorem State.setByte_pc : (s.setByte a b).pc = s.pc := rfl
@[simp] theorem State.setByte_sp : (s.setByte a b).sp = s.sp := rfl
@[simp] theorem State.setByte_stack : (s.setByte a b).stack = s.stack := rfl
@[simp] theorem State.setByte_dt : (s.setByte a b).dt = s.dt := rfl
@[simp] theorem State.setByte_st : (s.setByte a b).st = s.st := rfl
@[simp] theorem State.setByte_key : (s.setByte a b).key = s.key := rfl
@[simp] theorem State.setByte_fb : (s.setByte a b).fb = s.fb := rfl
@[simp] theorem State.setByte_dirty : (s.setByte a b).dirty = s.dirty := rfl
@[simp] theorem State.setByte_opc : (s.setByte a b).opc = s.opc := rfl
@[simp] theorem State.setByte_fault : (s.setByte a b).fault = s.fault := rfl
@[simp] theorem State.setByte_fcause : (s.setByte a b).fcause = s.fcause := rfl
@[simp] theorem State.setByte_fpc : (s.setByte a b).fpc = s.fpc := rfl
@[simp] theorem State.setByte_loadErr : (s.setByte a b).loadErr = s.loadErr := rfl
@[simp] theorem State.setByte_mem : (s.setByte a b).mem = Memory.set s.params.font s.mem a b := rfl
@[simp] theorem State.setByte_params : (s.setByte a b).params = s.params := rfl
@[simp] theorem State.setByte_randIn : (s.setByte a b).randIn = s.randIn := rfl
@[simp] theorem State.setByte_draws : (s.setByte a b).draws = s.draws := rfl
@[simp] theorem State.setByte_started : (s.setByte a b).started = s.started := rfl

end

section
variable (s : State) (w : Word)

@[simp] theorem State.advance_v : (s.advance w).v = s.v := rfl
@[simp] theorem State.advance_i : (s.advance w).i = s.i := rfl
@[simp] theorem State.advance_pc : (s.advance w).pc = s.pc + 2 := rfl
@[simp] theorem State.advance_sp : (s.advance w).sp = s.sp := rfl
@[simp] theorem State.advance_stack : (s.advance w).stack = s.stack := rfl
@[simp] theorem State.advance_dt : (s.advance w).dt = s.dt := rfl
@[simp] theorem State.advance_st : (s.advance w).st = s.st := rfl
@[simp] theorem State.advance_key : (s.advance w).key = s.key := rfl
@[simp] theorem State.advance_fb : (s.advance w).fb = s.fb := rfl
@[simp] theorem State.advance_dirty : (s.advance w).dirty = s.dirty := rfl
@[simp] theorem State.advance_opc : (s.advance w).opc = w := rfl
@[simp] theorem State.advance_fault : (s.advance w).fault = s.fault := rfl
@[simp] theorem State.advance_fcause : (s.advance w).fcause = s.fcause := rfl
@[simp] theorem State.advance_fpc : (s.advance w).fpc = s.fpc := rfl
@[simp] theorem State.advance_loadErr : (s.advance w).loadErr = s.loadErr := rfl
@[simp] theorem State.advance_mem : (s.advance w).mem = s.mem := rfl
@[simp] theorem State.advance_params : (s.advance w).params = s.params := rfl
@[simp] theorem State.advance_randIn : (s.advance w).randIn = s.randIn := rfl
@[simp] theorem State.advance_draws : (s.advance w).draws = s.draws := rfl
@[simp] theorem State.advance_started : (s.advance w).started = s.started := rfl

end

section
variable (s : State) (c : Fault) (p w : Word)

@[simp] theorem State.enterFault_v : (s.enterFault c p w).v = s.v := rfl
@[simp] theorem State.enterFault_i : (s.enterFault c p w).i = s.i := rfl
@[simp] theorem State.enterFault_pc : (s.enterFault c p w).pc = p := rfl
@[simp] theorem State.enterFault_sp : (s.enterFault c p w).sp = s.sp := rfl
@[simp] theorem State.enterFault_stack : (s.enterFault c p w).stack = s.stack := rfl
@[simp] theorem State.enterFault_dt : (s.enterFault c p w).dt = s.dt := rfl
@[simp] theorem State.enterFault_st : (s.enterFault c p w).st = s.st := rfl
@[simp] theorem State.enterFault_key : (s.enterFault c p w).key = s.key := rfl
@[simp] theorem State.enterFault_fb : (s.enterFault c p w).fb = s.fb := rfl
@[simp] theorem State.enterFault_dirty : (s.enterFault c p w).dirty = s.dirty := rfl
@[simp] theorem State.enterFault_opc : (s.enterFault c p w).opc = w := rfl
@[simp] theorem State.enterFault_fault : (s.enterFault c p w).fault = true := rfl
@[simp] theorem State.enterFault_fcause : (s.enterFault c p w).fcause = c.code := rfl
@[simp] theorem State.enterFault_fpc : (s.enterFault c p w).fpc = p := rfl
@[simp] theorem State.enterFault_loadErr : (s.enterFault c p w).loadErr = s.loadErr := rfl
@[simp] theorem State.enterFault_mem : (s.enterFault c p w).mem = s.mem := rfl
@[simp] theorem State.enterFault_params : (s.enterFault c p w).params = s.params := rfl
@[simp] theorem State.enterFault_randIn : (s.enterFault c p w).randIn = s.randIn := rfl
@[simp] theorem State.enterFault_draws : (s.enterFault c p w).draws = s.draws := rfl
@[simp] theorem State.enterFault_started : (s.enterFault c p w).started = s.started := rfl

end

section
variable (s : State)

@[simp] theorem State.skip_v : (s.skip).v = s.v := rfl
@[simp] theorem State.skip_i : (s.skip).i = s.i := rfl
@[simp] theorem State.skip_pc : (s.skip).pc = s.pc + 2 := rfl
@[simp] theorem State.skip_sp : (s.skip).sp = s.sp := rfl
@[simp] theorem State.skip_stack : (s.skip).stack = s.stack := rfl
@[simp] theorem State.skip_dt : (s.skip).dt = s.dt := rfl
@[simp] theorem State.skip_st : (s.skip).st = s.st := rfl
@[simp] theorem State.skip_key : (s.skip).key = s.key := rfl
@[simp] theorem State.skip_fb : (s.skip).fb = s.fb := rfl
@[simp] theorem State.skip_dirty : (s.skip).dirty = s.dirty := rfl
@[simp] theorem State.skip_opc : (s.skip).opc = s.opc := rfl
@[simp] theorem State.skip_fault : (s.skip).fault = s.fault := rfl
@[simp] theorem State.skip_fcause : (s.skip).fcause = s.fcause := rfl
@[simp] theorem State.skip_fpc : (s.skip).fpc = s.fpc := rfl
@[simp] theorem State.skip_loadErr : (s.skip).loadErr = s.loadErr := rfl
@[simp] theorem State.skip_mem : (s.skip).mem = s.mem := rfl
@[simp] theorem State.skip_params : (s.skip).params = s.params := rfl
@[simp] theorem State.skip_randIn : (s.skip).randIn = s.randIn := rfl
@[simp] theorem State.skip_draws : (s.skip).draws = s.draws := rfl
@[simp] theorem State.skip_started : (s.skip).started = s.started := rfl

end

section
variable (s : State) (b : Bool)

@[simp] theorem State.setFlag_v : (s.setFlag b).v = s.v.set regVF (flagByte b) := rfl
@[simp] theorem State.setFlag_i : (s.setFlag b).i = s.i := rfl
@[simp] theorem State.setFlag_pc : (s.setFlag b).pc = s.pc := rfl
@[simp] theorem State.setFlag_sp : (s.setFlag b).sp = s.sp := rfl
@[simp] theorem State.setFlag_stack : (s.setFlag b).stack = s.stack := rfl
@[simp] theorem State.setFlag_dt : (s.setFlag b).dt = s.dt := rfl
@[simp] theorem State.setFlag_st : (s.setFlag b).st = s.st := rfl
@[simp] theorem State.setFlag_key : (s.setFlag b).key = s.key := rfl
@[simp] theorem State.setFlag_fb : (s.setFlag b).fb = s.fb := rfl
@[simp] theorem State.setFlag_dirty : (s.setFlag b).dirty = s.dirty := rfl
@[simp] theorem State.setFlag_opc : (s.setFlag b).opc = s.opc := rfl
@[simp] theorem State.setFlag_fault : (s.setFlag b).fault = s.fault := rfl
@[simp] theorem State.setFlag_fcause : (s.setFlag b).fcause = s.fcause := rfl
@[simp] theorem State.setFlag_fpc : (s.setFlag b).fpc = s.fpc := rfl
@[simp] theorem State.setFlag_loadErr : (s.setFlag b).loadErr = s.loadErr := rfl
@[simp] theorem State.setFlag_mem : (s.setFlag b).mem = s.mem := rfl
@[simp] theorem State.setFlag_params : (s.setFlag b).params = s.params := rfl
@[simp] theorem State.setFlag_randIn : (s.setFlag b).randIn = s.randIn := rfl
@[simp] theorem State.setFlag_draws : (s.setFlag b).draws = s.draws := rfl
@[simp] theorem State.setFlag_started : (s.setFlag b).started = s.started := rfl

end

section
variable (s : State) (bs : List Byte)

@[simp] theorem State.setRegs_v : (s.setRegs bs).v = Vector.ofFn fun k : Fin 16 => bs.getD k s.v[k] := rfl
@[simp] theorem State.setRegs_i : (s.setRegs bs).i = s.i := rfl
@[simp] theorem State.setRegs_pc : (s.setRegs bs).pc = s.pc := rfl
@[simp] theorem State.setRegs_sp : (s.setRegs bs).sp = s.sp := rfl
@[simp] theorem State.setRegs_stack : (s.setRegs bs).stack = s.stack := rfl
@[simp] theorem State.setRegs_dt : (s.setRegs bs).dt = s.dt := rfl
@[simp] theorem State.setRegs_st : (s.setRegs bs).st = s.st := rfl
@[simp] theorem State.setRegs_key : (s.setRegs bs).key = s.key := rfl
@[simp] theorem State.setRegs_fb : (s.setRegs bs).fb = s.fb := rfl
@[simp] theorem State.setRegs_dirty : (s.setRegs bs).dirty = s.dirty := rfl
@[simp] theorem State.setRegs_opc : (s.setRegs bs).opc = s.opc := rfl
@[simp] theorem State.setRegs_fault : (s.setRegs bs).fault = s.fault := rfl
@[simp] theorem State.setRegs_fcause : (s.setRegs bs).fcause = s.fcause := rfl
@[simp] theorem State.setRegs_fpc : (s.setRegs bs).fpc = s.fpc := rfl
@[simp] theorem State.setRegs_loadErr : (s.setRegs bs).loadErr = s.loadErr := rfl
@[simp] theorem State.setRegs_mem : (s.setRegs bs).mem = s.mem := rfl
@[simp] theorem State.setRegs_params : (s.setRegs bs).params = s.params := rfl
@[simp] theorem State.setRegs_randIn : (s.setRegs bs).randIn = s.randIn := rfl
@[simp] theorem State.setRegs_draws : (s.setRegs bs).draws = s.draws := rfl
@[simp] theorem State.setRegs_started : (s.setRegs bs).started = s.started := rfl

end

section
variable (s : State) (b : Byte)

@[simp] theorem State.presentRand_v : (s.presentRand b).v = s.v := rfl
@[simp] theorem State.presentRand_i : (s.presentRand b).i = s.i := rfl
@[simp] theorem State.presentRand_pc : (s.presentRand b).pc = s.pc := rfl
@[simp] theorem State.presentRand_sp : (s.presentRand b).sp = s.sp := rfl
@[simp] theorem State.presentRand_stack : (s.presentRand b).stack = s.stack := rfl
@[simp] theorem State.presentRand_dt : (s.presentRand b).dt = s.dt := rfl
@[simp] theorem State.presentRand_st : (s.presentRand b).st = s.st := rfl
@[simp] theorem State.presentRand_key : (s.presentRand b).key = s.key := rfl
@[simp] theorem State.presentRand_fb : (s.presentRand b).fb = s.fb := rfl
@[simp] theorem State.presentRand_dirty : (s.presentRand b).dirty = s.dirty := rfl
@[simp] theorem State.presentRand_opc : (s.presentRand b).opc = s.opc := rfl
@[simp] theorem State.presentRand_fault : (s.presentRand b).fault = s.fault := rfl
@[simp] theorem State.presentRand_fcause : (s.presentRand b).fcause = s.fcause := rfl
@[simp] theorem State.presentRand_fpc : (s.presentRand b).fpc = s.fpc := rfl
@[simp] theorem State.presentRand_loadErr : (s.presentRand b).loadErr = s.loadErr := rfl
@[simp] theorem State.presentRand_mem : (s.presentRand b).mem = s.mem := rfl
@[simp] theorem State.presentRand_params : (s.presentRand b).params = s.params := rfl
@[simp] theorem State.presentRand_randIn : (s.presentRand b).randIn = some b := rfl
@[simp] theorem State.presentRand_draws : (s.presentRand b).draws = s.draws := rfl
@[simp] theorem State.presentRand_started : (s.presentRand b).started = s.started := rfl

end

section
variable (s : State)

@[simp] theorem State.withdrawRand_v : (s.withdrawRand).v = s.v := rfl
@[simp] theorem State.withdrawRand_i : (s.withdrawRand).i = s.i := rfl
@[simp] theorem State.withdrawRand_pc : (s.withdrawRand).pc = s.pc := rfl
@[simp] theorem State.withdrawRand_sp : (s.withdrawRand).sp = s.sp := rfl
@[simp] theorem State.withdrawRand_stack : (s.withdrawRand).stack = s.stack := rfl
@[simp] theorem State.withdrawRand_dt : (s.withdrawRand).dt = s.dt := rfl
@[simp] theorem State.withdrawRand_st : (s.withdrawRand).st = s.st := rfl
@[simp] theorem State.withdrawRand_key : (s.withdrawRand).key = s.key := rfl
@[simp] theorem State.withdrawRand_fb : (s.withdrawRand).fb = s.fb := rfl
@[simp] theorem State.withdrawRand_dirty : (s.withdrawRand).dirty = s.dirty := rfl
@[simp] theorem State.withdrawRand_opc : (s.withdrawRand).opc = s.opc := rfl
@[simp] theorem State.withdrawRand_fault : (s.withdrawRand).fault = s.fault := rfl
@[simp] theorem State.withdrawRand_fcause : (s.withdrawRand).fcause = s.fcause := rfl
@[simp] theorem State.withdrawRand_fpc : (s.withdrawRand).fpc = s.fpc := rfl
@[simp] theorem State.withdrawRand_loadErr : (s.withdrawRand).loadErr = s.loadErr := rfl
@[simp] theorem State.withdrawRand_mem : (s.withdrawRand).mem = s.mem := rfl
@[simp] theorem State.withdrawRand_params : (s.withdrawRand).params = s.params := rfl
@[simp] theorem State.withdrawRand_randIn : (s.withdrawRand).randIn = none := rfl
@[simp] theorem State.withdrawRand_draws : (s.withdrawRand).draws = s.draws := rfl
@[simp] theorem State.withdrawRand_started : (s.withdrawRand).started = s.started := rfl

end

/-! ### Register and byte reads through the updates -/

section
variable (s : State)

@[simp] theorem State.reg_setReg (x y : Reg) (b : Byte) :
    (s.setReg x b).reg y = if y = x then b else s.reg y := by
  simp only [State.reg, State.setReg, Fin.getElem_fin, Vector.getElem_set, Fin.ext_iff, eq_comm]

@[simp] theorem State.reg_setFlag (y : Reg) (b : Bool) :
    (s.setFlag b).reg y = if y = regVF then flagByte b else s.reg y := s.reg_setReg regVF y _

@[simp] theorem State.reg_setRegs (bs : List Byte) (y : Reg) :
    (s.setRegs bs).reg y = bs.getD y (s.reg y) := by
  simp [State.reg, State.setRegs]

@[simp] theorem State.reg_setI (a : Word) (y : Reg) : (s.setI a).reg y = s.reg y := rfl
@[simp] theorem State.reg_setPc (a : Word) (y : Reg) : (s.setPc a).reg y = s.reg y := rfl
@[simp] theorem State.reg_setDt (b : Byte) (y : Reg) : (s.setDt b).reg y = s.reg y := rfl
@[simp] theorem State.reg_setSt (b : Byte) (y : Reg) : (s.setSt b).reg y = s.reg y := rfl
@[simp] theorem State.reg_setFb (f : Frame) (y : Reg) : (s.setFb f).reg y = s.reg y := rfl
@[simp] theorem State.reg_setDirty (d : Bool) (y : Reg) : (s.setDirty d).reg y = s.reg y := rfl
@[simp] theorem State.reg_setByte (a : Nat) (b : Byte) (y : Reg) : (s.setByte a b).reg y = s.reg y := rfl
@[simp] theorem State.reg_advance (w : Word) (y : Reg) : (s.advance w).reg y = s.reg y := rfl
@[simp] theorem State.reg_enterFault (c : Fault) (p w : Word) (y : Reg) :
    (s.enterFault c p w).reg y = s.reg y := rfl
@[simp] theorem State.reg_skip (y : Reg) : s.skip.reg y = s.reg y := rfl
@[simp] theorem State.reg_presentRand (b : Byte) (y : Reg) : (s.presentRand b).reg y = s.reg y := rfl
@[simp] theorem State.reg_withdrawRand (y : Reg) : s.withdrawRand.reg y = s.reg y := rfl

@[simp] theorem State.byteAt_setReg (x : Reg) (b : Byte) (a : Nat) : (s.setReg x b).byteAt a = s.byteAt a := rfl
@[simp] theorem State.byteAt_setFlag (b : Bool) (a : Nat) : (s.setFlag b).byteAt a = s.byteAt a := rfl
@[simp] theorem State.byteAt_setRegs (bs : List Byte) (a : Nat) : (s.setRegs bs).byteAt a = s.byteAt a := rfl
@[simp] theorem State.byteAt_setI (i : Word) (a : Nat) : (s.setI i).byteAt a = s.byteAt a := rfl
@[simp] theorem State.byteAt_setPc (p : Word) (a : Nat) : (s.setPc p).byteAt a = s.byteAt a := rfl
@[simp] theorem State.byteAt_setDt (b : Byte) (a : Nat) : (s.setDt b).byteAt a = s.byteAt a := rfl
@[simp] theorem State.byteAt_setSt (b : Byte) (a : Nat) : (s.setSt b).byteAt a = s.byteAt a := rfl
@[simp] theorem State.byteAt_setFb (f : Frame) (a : Nat) : (s.setFb f).byteAt a = s.byteAt a := rfl
@[simp] theorem State.byteAt_setDirty (d : Bool) (a : Nat) : (s.setDirty d).byteAt a = s.byteAt a := rfl
@[simp] theorem State.byteAt_advance (w : Word) (a : Nat) : (s.advance w).byteAt a = s.byteAt a := rfl
@[simp] theorem State.byteAt_enterFault (c : Fault) (p w : Word) (a : Nat) :
    (s.enterFault c p w).byteAt a = s.byteAt a := rfl
@[simp] theorem State.byteAt_skip (a : Nat) : s.skip.byteAt a = s.byteAt a := rfl
@[simp] theorem State.byteAt_presentRand (b : Byte) (a : Nat) : (s.presentRand b).byteAt a = s.byteAt a := rfl
@[simp] theorem State.byteAt_withdrawRand (a : Nat) : s.withdrawRand.byteAt a = s.byteAt a := rfl

/-- The register writes of FX65 change nothing but V. -/
theorem State.setRegs_keeps (bs : List Byte) : { s.setRegs bs with v := s.v } = s := by
  simp only [State.setRegs]

/-- WriteKeys changes nothing but the latch. -/
theorem State.writeKeys_keeps (m : Word) : { s.writeKeys m with key := s.key } = s := by
  simp only [State.writeKeys]

end

end Sys2Proof.Machine
end

