-- ==== Sys2Proof/Laws/Memory.lean ====
section
/-! SUPPORT. The laws of the memory list: what a write leaves at every address, and that every memory operation
keeps the canonical form. -/

namespace Sys2Proof.Machine

variable (f : Font)

/-- Reset memory is in canonical form. -/
theorem Memory.wf_nil : Memory.wf f [] := ⟨List.Pairwise.nil, by simp⟩

/-- An address below every listed one reads as its reset contents. -/
theorem Memory.get_of_forall_lt {m : List Host.Cell} {a : Nat} (h : ∀ c ∈ m, a < c.1) :
    Memory.get f m a = resetByte f a := by
  induction m with
  | nil => rfl
  | cons c m ih =>
    have hc := h c (by simp)
    rw [Memory.get, if_neg (by omega)]
    exact ih fun d hd => h d (by simp [hd])

/-- An address that is not listed reads as its reset contents. -/
theorem Memory.get_of_forall_ne {m : List Host.Cell} {a : Nat} (h : ∀ c ∈ m, c.1 ≠ a) :
    Memory.get f m a = resetByte f a := by
  induction m with
  | nil => rfl
  | cons c m ih =>
    rw [Memory.get, if_neg (fun e => h c (by simp) e.symm)]
    exact ih fun d hd => h d (by simp [hd])

/-- Read after write: the written address reads as the byte written, and every other one as before. -/
theorem Memory.get_set {m : List Host.Cell} (hm : m.Pairwise (fun c d => c.1 < d.1)) (a b : Nat) (x : Byte) :
    Memory.get f (Memory.set f m a x) b = if b = a then x else Memory.get f m b := by
  induction m with
  | nil =>
    by_cases hx : x = resetByte f a <;> by_cases hb : b = a <;> simp [Memory.set, Memory.get, hx, hb]
  | cons c m ih =>
    obtain ⟨hlt, hm'⟩ := List.pairwise_cons.1 hm
    rw [Memory.set]
    by_cases h1 : a < c.1
    · rw [if_pos h1]
      by_cases hx : x = resetByte f a
      · rw [if_pos hx]
        by_cases hb : b = a
        · subst hb
          rw [if_pos rfl, hx]
          exact Memory.get_of_forall_lt f fun d hd => by
            rcases List.mem_cons.1 hd with rfl | hd
            · exact h1
            · exact Nat.lt_trans h1 (hlt d hd)
        · rw [if_neg hb]
      · rw [if_neg hx, Memory.get]
    · rw [if_neg h1]
      by_cases h2 : a = c.1
      · rw [if_pos h2]
        by_cases hx : x = resetByte f a
        · rw [if_pos hx]
          by_cases hb : b = a
          · subst hb
            rw [if_pos rfl, hx]
            exact Memory.get_of_forall_lt f fun d hd => by rw [h2]; exact hlt d hd
          · rw [if_neg hb, Memory.get, if_neg (by rw [← h2]; exact hb)]
        · rw [if_neg hx]
          simp only [Memory.get]
          by_cases hb : b = a
          · simp [hb]
          · simp [hb, ← h2]
      · rw [if_neg h2]
        simp only [Memory.get, ih hm']
        by_cases hb : b = c.1
        · have : ¬ b = a := by omega
          simp [hb, Ne.symm h2]
        · simp [hb]

/-- What a write can list: the address written, or what was listed before. -/
theorem Memory.mem_set {m : List Host.Cell} {a : Nat} {x : Byte} {c : Host.Cell}
    (h : c ∈ Memory.set f m a x) : (c = (a, x) ∧ x ≠ resetByte f a) ∨ c ∈ m := by
  induction m with
  | nil =>
    by_cases hx : x = resetByte f a <;> simp [Memory.set, hx] at h ⊢
    exact h
  | cons d m ih =>
    by_cases h1 : a < d.1 <;> by_cases h2 : a = d.1 <;> by_cases hx : x = resetByte f a <;>
      simp only [Memory.set, h1, h2, hx, if_true, if_false, List.mem_cons] at h ⊢ <;> grind

/-- A write inside the array keeps the canonical form. -/
theorem Memory.wf_set {m : List Host.Cell} (hm : Memory.wf f m) {a : Nat} (ha : a < 4096) (x : Byte) :
    Memory.wf f (Memory.set f m a x) := by
  refine ⟨?_, fun c hc => ?_⟩
  · have hp := hm.1
    clear hm
    induction m with
    | nil => by_cases hx : x = resetByte f a <;> simp [Memory.set, hx]
    | cons c m ih =>
      obtain ⟨hlt, hm'⟩ := List.pairwise_cons.1 hp
      rw [Memory.set]
      by_cases h1 : a < c.1
      · rw [if_pos h1]
        by_cases hx : x = resetByte f a
        · rw [if_pos hx]; exact hp
        · rw [if_neg hx]
          refine List.pairwise_cons.2 ⟨fun d hd => ?_, hp⟩
          rcases List.mem_cons.1 hd with rfl | hd
          · exact h1
          · exact Nat.lt_trans h1 (hlt d hd)
      · rw [if_neg h1]
        by_cases h2 : a = c.1
        · rw [if_pos h2]
          by_cases hx : x = resetByte f a
          · rw [if_pos hx]; exact hm'
          · rw [if_neg hx]; exact List.pairwise_cons.2 ⟨fun d hd => by rw [h2]; exact hlt d hd, hm'⟩
        · rw [if_neg h2]
          refine List.pairwise_cons.2 ⟨fun d hd => ?_, ih hm'⟩
          rcases Memory.mem_set f hd with ⟨rfl, -⟩ | hd
          · show c.1 < a; omega
          · exact hlt d hd
  · rcases Memory.mem_set f hc with ⟨rfl, hx⟩ | hc
    · exact ⟨ha, hx⟩
    · exact hm.2 c hc

/-! ### The same laws for the state -/

/-- A listed address reads as the byte listed for it. -/
theorem Memory.get_of_mem {m : List Host.Cell} (hm : Memory.wf f m) {c : Host.Cell} (hc : c ∈ m) :
    Memory.get f m c.1 = c.2 := by
  induction m with
  | nil => cases hc
  | cons d m ih =>
    obtain ⟨hlt, hm'⟩ := List.pairwise_cons.1 hm.1
    rcases List.mem_cons.1 hc with rfl | h
    · simp [Memory.get]
    · rw [Memory.get, if_neg (by have := hlt c h; omega)]
      exact ih ⟨hm', fun e he => hm.2 e (List.mem_cons_of_mem _ he)⟩ h

/-- Canonical memories that read alike are equal lists. -/
theorem Memory.ext {m n : List Host.Cell} (hm : Memory.wf f m) (hn : Memory.wf f n)
    (h : ∀ a, a < 4096 → Memory.get f m a = Memory.get f n a) : m = n := by
  have mem : ∀ {p q : List Host.Cell}, Memory.wf f p → Memory.wf f q →
      (∀ a, a < 4096 → Memory.get f p a = Memory.get f q a) → ∀ c ∈ p, c ∈ q := by
    intro p q hp hq hpq c hc
    have hr : Memory.get f q c.1 = c.2 := by
      rw [← hpq c.1 (hp.2 c hc).1]
      exact Memory.get_of_mem f hp hc
    by_contra hn
    have hoff : ∀ d ∈ q, d.1 ≠ c.1 := fun d hd e =>
      hn (Prod.ext e (by rw [← hr, ← e]; exact (Memory.get_of_mem f hq hd).symm) ▸ hd)
    exact (hp.2 c hc).2 (hr ▸ Memory.get_of_forall_ne f hoff)
  have sorted : ∀ {p : List Host.Cell}, Memory.wf f p → p.Nodup := fun hp =>
    hp.1.imp fun hlt e => by rw [e] at hlt; omega
  refine List.Perm.eq_of_pairwise (le := fun c d => c.1 < d.1) (fun a b _ _ h1 h2 => by omega) hm.1 hn.1 ?_
  exact (List.perm_ext_iff_of_nodup (sorted hm) (sorted hn)).2 fun c =>
    ⟨mem hm hn h c, mem hn hm (fun a ha => (h a ha).symm) c⟩

/-- Read after write on a state whose memory is in canonical form. -/
theorem State.byteAt_setByte {s : State} (hs : Memory.wf s.params.font s.mem) (a b : Nat) (x : Byte) :
    (s.setByte a x).byteAt b = if b = a then x else s.byteAt b :=
  Memory.get_set s.params.font hs.1 a b x

/-- A byte written inside the array keeps the canonical form. -/
theorem State.wf_setByte {s : State} (hs : Memory.wf s.params.font s.mem) {a : Nat} (ha : a < 4096) (x : Byte) :
    Memory.wf (s.setByte a x).params.font (s.setByte a x).mem :=
  Memory.wf_set s.params.font hs ha x

/-- An image written inside the array keeps the canonical form. -/
theorem State.wf_setBytes {s : State} (hs : Memory.wf s.params.font s.mem) {a : Nat} (xs : List Byte)
    (ha : a + xs.length ≤ 4096) : Memory.wf (s.setBytes a xs).params.font (s.setBytes a xs).mem := by
  induction xs generalizing s a with
  | nil => exact hs
  | cons x xs ih =>
    rw [List.length_cons] at ha
    exact ih (State.wf_setByte hs (by omega) x) (by omega)

/-- Reset memory lists nothing, so it is in canonical form. -/
theorem State.wf_resetOf (p : Params) (n : Nat) :
    Memory.wf (State.resetOf p n).params.font (State.resetOf p n).mem := Memory.wf_nil p.font

end Sys2Proof.Machine
end

