-- ==== Sys2Proof/Laws/Ops.lean ====
section
/-! SUPPORT. What each shared operation can do, said once: addresses, MemRead, MemWrite, byte runs, the stack, the flag
writers and the fault entry. -/

namespace Sys2Proof.Machine

/-! ### Addresses -/

theorem ea_wrap (a : Nat) : ea .wrap a = .ok (a % 4096) := rfl

theorem ea_fault_of_le {a : Nat} (h : a ≤ 0xFFF) : ea .fault a = .ok a := by simp [ea, h]

/-- An effective address is inside the array. -/
theorem ea_lt {p : AddrPolicy} {a e : Nat} (h : ea p a = .ok e) : e < 4096 := by
  cases p <;> simp only [ea] at h
  · cases h; omega
  · split at h <;> cases h; omega

/-- An effective address is the exact address modulo 4096, under both policies. -/
theorem ea_eq_mod {p : AddrPolicy} {a e : Nat} (h : ea p a = .ok e) : e = a % 4096 := by
  cases p <;> simp only [ea] at h
  · cases h; rfl
  · split at h <;> cases h; omega

/-- The only address fault is ADDRESS_RANGE, above 0xFFF under P_ADDR_POLICY = `fault` (20_memory.md R67). -/
theorem ea_error {p : AddrPolicy} {a : Nat} {c : Fault} (h : ea p a = .error c) :
    c = .addressRange ∧ p = .fault ∧ 0xFFF < a := by
  cases p <;> simp only [ea] at h
  · cases h
  · split at h <;> cases h; exact ⟨rfl, rfl, by omega⟩

/-- The exact condition under which an address is accepted. -/
theorem ea_ok {p : AddrPolicy} {a : Nat} (h : p = .wrap ∨ a ≤ 0xFFF) : ea p a = .ok (a % 4096) := by
  cases p
  · rfl
  · have ha : a ≤ 0xFFF := by simpa using h
    rw [ea_fault_of_le ha, Nat.mod_eq_of_lt (by omega)]

/-! ### MemRead -/

theorem State.memRead_of_ea {s : State} {a e : Nat} (h : ea s.params.addrPolicy a = .ok e) :
    s.memRead a = .ok (s.byteAt e) := by simp [State.memRead, h]

theorem State.memRead_ok {s : State} {a : Nat} (h : s.params.addrPolicy = .wrap ∨ a ≤ 0xFFF) :
    s.memRead a = .ok (s.byteAt (a % 4096)) := State.memRead_of_ea (ea_ok h)

theorem State.memRead_error {s : State} {a : Nat} {c : Fault} (h : s.memRead a = .error c) :
    c = .addressRange ∧ s.params.addrPolicy = .fault ∧ 0xFFF < a := by
  unfold State.memRead at h
  split at h
  · cases h
  · rename_i h'; cases h; exact ea_error h'

/-- A read that faults: the address exceeds 0xFFF under `fault`. -/
theorem State.memRead_fault {s : State} {a : Nat} (hp : s.params.addrPolicy = .fault) (ha : 0xFFF < a) :
    s.memRead a = .error .addressRange := by
  have : ¬ a ≤ 0xFFF := by omega
  simp [State.memRead, hp, ea, this]

/-- Two states with the same memory, font and address policy read alike. -/
theorem State.memRead_congr {s t : State} (hp : t.params = s.params) (hm : t.mem = s.mem) (a : Nat) :
    t.memRead a = s.memRead a := by simp [State.memRead, State.byteAt, hp, hm]

/-- A run of bytes whose addresses are accepted is read in order. -/
theorem State.readBytes_ok {s : State} {a n : Nat} (h : s.params.addrPolicy = .wrap ∨ n = 0 ∨ a + n ≤ 0x1000) :
    s.readBytes a n = .ok ((List.range n).map fun k => s.byteAt ((a + k) % 4096)) := by
  induction n generalizing a with
  | zero => rfl
  | succ n ih =>
    rw [State.readBytes, State.memRead_ok (h.imp id fun h => by omega), ih (h.imp id fun h => by omega),
      List.range_succ_eq_map]
    simp [Function.comp_def, Nat.add_right_comm, Nat.add_assoc]

/-- A run of bytes with an address out of range faults with ADDRESS_RANGE. -/
theorem State.readBytes_fault {s : State} {a n : Nat} (hp : s.params.addrPolicy = .fault) (hn : 0 < n)
    (ha : 0x1000 < a + n) : s.readBytes a n = .error .addressRange := by
  induction n generalizing a with
  | zero => omega
  | succ n ih =>
    rw [State.readBytes]
    by_cases h : a ≤ 0xFFF
    · rw [State.memRead_ok (.inr h), ih (by omega) (by omega)]
    · rw [State.memRead_fault hp (by omega)]

/-! ### MemWrite -/

/-- A write either drops its byte in the reserved region, or stores it at an address of the array that may be
written. -/
theorem State.memWrite_cases {s t : State} {a : Nat} {x : Byte} (h : s.memWrite a x = .ok t) :
    (t = s ∧ s.params.reservedWrite = .ignore ∧ a % 4096 < 0x200) ∨
    (t = s.setByte (a % 4096) x ∧ (0x200 ≤ a % 4096 ∨ s.params.reservedWrite = .write)) := by
  unfold State.memWrite at h
  split at h
  · cases h
  · rename_i e he
    rw [ea_eq_mod he] at h
    split at h
    · cases h; exact .inr ⟨rfl, .inl ‹_›⟩
    · split at h <;> cases h
      · exact .inl ⟨rfl, ‹_›, by omega⟩
      · exact .inr ⟨rfl, .inr ‹_›⟩

/-- The write of an accepted address outside the reserved region, or where the region does not fault. -/
theorem State.memWrite_ok {s : State} {a : Nat} (x : Byte) (ha : s.params.addrPolicy = .wrap ∨ a ≤ 0xFFF)
    (hr : s.params.reservedWrite ≠ .fault ∨ 0x200 ≤ a % 4096) :
    s.memWrite a x = .ok (if 0x200 ≤ a % 4096 ∨ s.params.reservedWrite = .write
      then s.setByte (a % 4096) x else s) := by
  rw [State.memWrite, ea_ok ha]
  by_cases h : 0x200 ≤ a % 4096
  · simp [h]
  · simp only [h, if_false, false_or]
    cases hw : s.params.reservedWrite <;> simp_all

theorem State.memWrite_addressRange {s : State} {a : Nat} (x : Byte) (hp : s.params.addrPolicy = .fault)
    (ha : 0xFFF < a) : s.memWrite a x = .error .addressRange := by
  have : ¬ a ≤ 0xFFF := by omega
  simp [State.memWrite, hp, ea, this]

theorem State.memWrite_reserved {s : State} {a : Nat} (x : Byte) (ha : s.params.addrPolicy = .wrap ∨ a ≤ 0xFFF)
    (hr : s.params.reservedWrite = .fault) (hlt : a % 4096 < 0x200) :
    s.memWrite a x = .error .reservedWrite := by
  have : ¬ 0x200 ≤ a % 4096 := by omega
  simp [State.memWrite, ea_ok ha, this, hr]

/-- The parameters of a state that differs in memory alone. -/
theorem State.params_of_keeps {s t : State} {m : List Host.Cell} (h : { t with mem := m } = s) :
    t.params = s.params := by
  have := congrArg State.params h
  exact this

/-- A write changes nothing but memory. -/
theorem State.memWrite_keeps {s t : State} {a : Nat} {x : Byte} (h : s.memWrite a x = .ok t) :
    { t with mem := s.mem } = s := by
  rcases State.memWrite_cases h with ⟨rfl, -⟩ | ⟨rfl, -⟩ <;> rfl

theorem State.memWrite_wf {s t : State} {a : Nat} {x : Byte} (hs : MemoryOk s) (h : s.memWrite a x = .ok t) :
    MemoryOk t := by
  rcases State.memWrite_cases h with ⟨rfl, -⟩ | ⟨rfl, -⟩
  · exact hs
  · exact State.wf_setByte hs (Nat.mod_lt _ (by omega)) x

/-- A run of writes changes nothing but memory. -/
theorem State.writeBytes_keeps {s t : State} {a : Nat} {xs : List Byte} (h : s.writeBytes a xs = .ok t) :
    { t with mem := s.mem } = s := by
  induction xs generalizing s a with
  | nil => cases h; rfl
  | cons x xs ih =>
    unfold State.writeBytes at h
    split at h
    · cases h
    · rename_i u hu
      have h1 := State.memWrite_keeps hu
      have h2 := ih h
      calc { t with mem := s.mem } = { { t with mem := u.mem } with mem := s.mem } := rfl
        _ = { u with mem := s.mem } := by rw [h2]
        _ = s := h1

/-- The parameters survive a run of writes. -/
theorem State.writeBytes_params {s t : State} {a : Nat} {xs : List Byte} (h : s.writeBytes a xs = .ok t) :
    t.params = s.params := State.params_of_keeps (State.writeBytes_keeps h)

theorem State.writeBytes_wf {s t : State} {a : Nat} {xs : List Byte} (hs : MemoryOk s)
    (h : s.writeBytes a xs = .ok t) : MemoryOk t := by
  induction xs generalizing s a with
  | nil => cases h; exact hs
  | cons x xs ih =>
    unfold State.writeBytes at h
    split at h
    · cases h
    · rename_i u hu; exact ih (State.memWrite_wf hs hu) h

/-- A byte a run of writes changes is one of those it addresses, and lies outside the reserved region unless
P_RESERVED_WRITE = `write`. -/
theorem State.writeBytes_changes {s t : State} {a b : Nat} {xs : List Byte} (hs : MemoryOk s)
    (h : s.writeBytes a xs = .ok t) (hb : t.byteAt b ≠ s.byteAt b) :
    (∃ k < xs.length, b = (a + k) % 4096) ∧ (0x200 ≤ b ∨ s.params.reservedWrite = .write) := by
  induction xs generalizing s a with
  | nil => cases h; exact absurd rfl hb
  | cons x xs ih =>
    unfold State.writeBytes at h
    split at h
    · cases h
    · rename_i u hu
      have hp : u.params = s.params := State.params_of_keeps (State.memWrite_keeps hu)
      by_cases hub : t.byteAt b = u.byteAt b
      · rcases State.memWrite_cases hu with ⟨rfl, -⟩ | ⟨rfl, hw⟩
        · exact absurd hub hb
        · rw [hub, State.byteAt_setByte hs] at hb
          split at hb
          · rename_i hba; exact ⟨⟨0, by simp, by simpa using hba⟩, hba ▸ hw⟩
          · exact absurd rfl hb
      · obtain ⟨⟨k, hk, hbk⟩, hw⟩ := ih (State.memWrite_wf hs hu) h hub
        exact ⟨⟨k + 1, by simp; omega, by rw [hbk]; congr 1; omega⟩, hp ▸ hw⟩

/-- A run of at most 16 writes at accepted addresses, none of them faulting in the reserved region: byte k is stored at its
address where that may be written, and every other address keeps its byte. -/
theorem State.writeBytes_ok {s : State} {a : Nat} {xs : List Byte} (hs : MemoryOk s) (hlen : xs.length ≤ 4096)
    (ha : s.params.addrPolicy = .wrap ∨ xs.length = 0 ∨ a + xs.length ≤ 0x1000)
    (hr : s.params.reservedWrite ≠ .fault ∨ ∀ k, k < xs.length → 0x200 ≤ (a + k) % 4096) :
    ∃ t, s.writeBytes a xs = .ok t ∧
      (∀ k (h : k < xs.length), t.byteAt ((a + k) % 4096) =
        if 0x200 ≤ (a + k) % 4096 ∨ s.params.reservedWrite = .write then xs[k] else s.byteAt ((a + k) % 4096)) ∧
      ∀ b, (∀ k, k < xs.length → b ≠ (a + k) % 4096) → t.byteAt b = s.byteAt b := by
  induction xs generalizing s a with
  | nil => exact ⟨s, rfl, by simp, by simp⟩
  | cons x xs ih =>
    simp only [List.length_cons] at hlen ha hr
    have hw := State.memWrite_ok (s := s) (a := a) x (ha.imp id fun h => by omega)
      (hr.imp id fun h => by simpa using h 0 (by omega))
    set u := if 0x200 ≤ a % 4096 ∨ s.params.reservedWrite = .write then s.setByte (a % 4096) x else s with hu
    have hpu : u.params = s.params := by rw [hu]; split <;> rfl
    have hub : ∀ b, u.byteAt b = if b = a % 4096 ∧ (0x200 ≤ a % 4096 ∨ s.params.reservedWrite = .write) then x
        else s.byteAt b := by
      intro b
      rw [hu]
      by_cases hc : 0x200 ≤ a % 4096 ∨ s.params.reservedWrite = .write
      · simp [hc, State.byteAt_setByte hs]
      · simp [hc]
    obtain ⟨t, ht, htk, htb⟩ := ih (s := u) (a := a + 1) (State.memWrite_wf hs hw) (by omega)
      (by rw [hpu]; exact ha.imp id fun h => by omega)
      (by rw [hpu]; exact hr.imp id fun h k hk => by have := h (k + 1) (by omega); rwa [show a + 1 + k = a + (k + 1) by omega])
    have hne : ∀ k, k < xs.length → (a + (k + 1)) % 4096 ≠ a % 4096 := by intro k hk; omega
    refine ⟨t, by rw [State.writeBytes, hw]; exact ht, fun k hk => ?_, fun b hb => ?_⟩
    · cases k with
      | zero =>
        have h0 := htb (a % 4096) fun k hk => by have := hne k hk; rw [show a + 1 + k = a + (k + 1) by omega]; omega
        simp only [Nat.add_zero, List.getElem_cons_zero, h0, hub, true_and]
      | succ k =>
        have hk' : k < xs.length := by simpa using hk
        have h1 := htk k hk'
        rw [show a + 1 + k = a + (k + 1) by omega, hpu, hub] at h1
        simpa [hne k hk'] using h1
    · have h1 := htb b fun k hk => by
        have := hb (k + 1) (by simp; omega); rwa [show a + 1 + k = a + (k + 1) by omega]
      rw [h1, hub, if_neg]
      rintro ⟨h, -⟩
      exact hb 0 (by simp) (by simpa using h)

/-- A run of writes with an address out of range faults with ADDRESS_RANGE: such a run reaches no reserved address
(60_exceptions.md R254). -/
theorem State.writeBytes_addressRange {s : State} {a : Nat} {xs : List Byte} (hp : s.params.addrPolicy = .fault)
    (hlen : xs.length ≤ 3584) (hn : 0 < xs.length) (ha : 0x1000 < a + xs.length) (h200 : 0x200 ≤ a) :
    s.writeBytes a xs = .error .addressRange := by
  induction xs generalizing s a with
  | nil => simp at hn
  | cons x xs ih =>
    rw [State.writeBytes]
    by_cases h : a ≤ 0xFFF
    · simp only [List.length_cons] at ha hlen
      rw [State.memWrite_ok x (.inr h) (.inr (by omega)), if_pos (.inl (by omega))]
      exact ih hp (by omega) (by omega) (by omega) (by omega)
    · rw [State.memWrite_addressRange x hp (by omega)]

/-- A run of writes at accepted addresses one of which is reserved faults with RESERVED_WRITE under `fault`. -/
theorem State.writeBytes_reserved {s : State} {a : Nat} {xs : List Byte}
    (ha : s.params.addrPolicy = .wrap ∨ xs.length = 0 ∨ a + xs.length ≤ 0x1000)
    (hr : s.params.reservedWrite = .fault) (hk : ∃ k < xs.length, (a + k) % 4096 < 0x200) :
    s.writeBytes a xs = .error .reservedWrite := by
  induction xs generalizing s a with
  | nil => obtain ⟨k, h, -⟩ := hk; simp at h
  | cons x xs ih =>
    simp only [List.length_cons] at ha hk
    rw [State.writeBytes]
    by_cases h : a % 4096 < 0x200
    · clear hk
      rw [State.memWrite_reserved x (ha.imp id fun h => by omega) hr h]
    · obtain ⟨k, hk, hlt⟩ := hk
      rw [State.memWrite_ok x (ha.imp id fun h => by omega) (.inr (by omega)), if_pos (.inl (by omega))]
      have hk0 : k ≠ 0 := by rintro rfl; exact h hlt
      exact ih (by simpa only [State.setByte_params] using ha.imp id fun h => by omega) hr
        ⟨k - 1, by omega, by rwa [show a + 1 + (k - 1) = a + k by omega]⟩

/-! ### Loads, the stack and the flag writers -/

/-- An image placed inside the array: byte n at its address, every other address as before
(70_reset_and_hazards.md R294). -/
theorem State.byteAt_setBytes {s : State} {a : Nat} {xs : List Byte} (hs : MemoryOk s) (ha : a + xs.length ≤ 4096)
    (b : Nat) : (s.setBytes a xs).byteAt b =
      if h : a ≤ b ∧ b < a + xs.length then xs[b - a] else s.byteAt b := by
  induction xs generalizing s a with
  | nil => simp [State.setBytes, show ¬ (a ≤ b ∧ b < a) by omega]
  | cons x xs ih =>
    simp only [List.length_cons] at ha
    rw [State.setBytes, ih (State.wf_setByte hs (by omega) x) (by omega)]
    by_cases h0 : b = a
    · subst h0
      simp [State.byteAt_setByte hs]
    · by_cases h1 : a + 1 ≤ b ∧ b < a + 1 + xs.length
      · rw [dif_pos h1, dif_pos ⟨by omega, by simp only [List.length_cons]; omega⟩, List.getElem_cons,
          dif_neg (by omega)]
        congr 1
      · rw [dif_neg h1, dif_neg (by simp only [List.length_cons]; omega), State.byteAt_setByte hs, if_neg h0]

/-- An image placed in memory changes nothing else. -/
theorem State.setBytes_keeps (s : State) (a : Nat) (xs : List Byte) :
    { s.setBytes a xs with mem := s.mem } = s := by
  induction xs generalizing s a with
  | nil => rfl
  | cons x xs ih =>
    calc { s.setBytes a (x :: xs) with mem := s.mem }
        = { { (s.setByte a x).setBytes (a + 1) xs with mem := (s.setByte a x).mem } with mem := s.mem } := rfl
      _ = { s.setByte a x with mem := s.mem } := by rw [ih]
      _ = s := rfl

/-- A push with room. -/
theorem State.push_ok {s : State} {a : Word} (h : s.sp.val < 16) :
    s.push a = .ok { s with stack := s.stack.set s.sp.val a, sp := ⟨s.sp.val + 1, by omega⟩ } := by
  simp [State.push, h]

theorem State.push_full {s : State} {a : Word} (h : s.sp.val = 16) : s.push a = .error .stackOverflow := by
  simp [State.push, h]

/-- A pop with an entry. -/
theorem State.pop_ok {s : State} (h : 0 < s.sp.val) :
    s.pop = .ok (s.stack[s.sp.val - 1]'(by omega), { s with sp := ⟨s.sp.val - 1, by omega⟩ }) := by
  simp [State.pop, h]

theorem State.pop_empty {s : State} (h : s.sp.val = 0) : s.pop = .error .stackUnderflow := by
  simp [State.pop, h]

/-- What the second assignment of a flag-writing instruction reads (42_alu.md R173). -/
theorem State.reg_operandState (s : State) (b : Bool) (r : Reg) :
    (s.operandState b).reg r = operandSeen s (flagByte b) r := by
  unfold State.operandState operandSeen
  cases h : s.params.operandOrder <;> simp

@[simp] theorem State.i_operandState (s : State) (b : Bool) : (s.operandState b).i = s.i := by
  unfold State.operandState
  cases s.params.operandOrder <;> rfl

/-- A fault raised by a meaning is the halted state of 60_exceptions.md R252. -/
theorem State.raise_eq (s : State) (c : Fault) : s.raise c = .next (haltedWith c.code s) := rfl

@[simp] theorem State.orFault_ok (s t : State) : s.orFault (.ok t) = .next t := rfl

@[simp] theorem State.orFault_error (s : State) (c : Fault) : s.orFault (.error c) = .next (haltedWith c.code s) := rfl

/-- A meaning that may raise answers its result, or the halted state of its fault. -/
theorem State.orFault_cases {s t : State} {r : Except Fault State} (h : s.orFault r = .next t) :
    r = .ok t ∨ ∃ c, r = .error c ∧ t = haltedWith c.code s := by
  cases r with
  | ok u => left; cases h; rfl
  | error c => right; cases h; exact ⟨c, rfl, rfl⟩

/-- The codes of 60_exceptions.md R251 are 1 to 5. -/
theorem Fault.code_range (c : Fault) : 1 ≤ c.code.toNat ∧ c.code.toNat ≤ 5 := by cases c <;> decide

/-! ### The framebuffer -/

/-- A flipped pixel changes, and no other one does. -/
theorem Frame.pixel_flip (f : Frame) (x px : Fin 64) (y py : Fin 32) :
    Frame.pixel (Frame.flip f x y) px py = if px = x ∧ py = y then !Frame.pixel f px py else Frame.pixel f px py := by
  simp only [Frame.pixel, Frame.flip, Fin.getElem_fin, Vector.getElem_set, Fin.ext_iff]
  by_cases hy : y.val = py.val
  · by_cases hx : x.val = px.val
    · simp [hx, hy]
    · simp [hx, hy, Ne.symm hx]
  · simp [hy, Ne.symm hy]

theorem Frame.pixel_blank (px : Fin 64) (py : Fin 32) : Frame.pixel Frame.blank px py = false := by
  simp [Frame.pixel, Frame.blank]

end Sys2Proof.Machine
end

