-- ==== Sys2Proof/Laws/Draw.lean ====
section
/-! SUPPORT. A draw as the list of screen points it flips (44_display.md R212 to R215): what a run of flips leaves, and which
points a sprite's rows give. -/

namespace Sys2Proof.Machine

/-- Where a sprite pixel lands, as arithmetic on the coordinates (44_display.md R214). -/
theorem landing_eq_some {e : DrawEdge} {x0 px : Fin 64} {y0 py : Fin 32} {c r : Nat} :
    landing e x0 y0 c r = some (px, py) ↔
      match e with
      | .wrap => px.val = (x0.val + c) % 64 ∧ py.val = (y0.val + r) % 32
      | .clip => px.val = x0.val + c ∧ py.val = y0.val + r := by
  cases e
  · simp [landing, Fin.ext_iff, eq_comm]
  · unfold landing
    dsimp only
    by_cases h : x0.val + c < 64 ∧ y0.val + r < 32
    · rw [dif_pos h]
      simp [Fin.ext_iff, eq_comm]
    · rw [dif_neg h]
      have := px.isLt
      have := py.isLt
      simp only [reduceCtorEq, false_iff]
      omega

/-- One point of a draw: its pixel flips, and a pixel that was set is a collision. -/
def flipPoint (acc : Frame × Bool) (p : Fin 64 × Fin 32) : Frame × Bool :=
  (Frame.flip acc.1 p.1 p.2, acc.2 || Frame.pixel acc.1 p.1 p.2)

/-- The points of one sprite row, left to right. -/
def rowPoints (e : DrawEdge) (x0 : Fin 64) (y0 : Fin 32) (row : Byte) (r : Nat) : List (Fin 64 × Fin 32) :=
  (List.range 8).filterMap fun c => if spriteBit row c then landing e x0 y0 c r else none

/-- The points of the sprite rows from row `r` on. -/
def spritePoints (e : DrawEdge) (x0 : Fin 64) (y0 : Fin 32) : List Byte → Nat → List (Fin 64 × Fin 32)
  | [], _ => []
  | row :: rows, r => rowPoints e x0 y0 row r ++ spritePoints e x0 y0 rows (r + 1)

theorem drawRow_eq (e : DrawEdge) (x0 : Fin 64) (y0 : Fin 32) (row : Byte) (r : Nat) (acc : Frame × Bool) :
    drawRow e x0 y0 row r acc = (rowPoints e x0 y0 row r).foldl flipPoint acc := by
  unfold drawRow rowPoints
  rw [List.foldl_filterMap]
  congr 1
  funext a c
  unfold drawPixel
  by_cases hb : spriteBit row c
  · cases hl : landing e x0 y0 c r <;> simp [hb, flipPoint]
  · simp [hb]

/-- A draw flips the points of its rows, in order. -/
theorem drawRows_eq (e : DrawEdge) (x0 : Fin 64) (y0 : Fin 32) (rows : List Byte) :
    ∀ (r : Nat) (acc : Frame × Bool),
      drawRows e x0 y0 rows r acc = (spritePoints e x0 y0 rows r).foldl flipPoint acc := by
  induction rows with
  | nil => intro r acc; rfl
  | cons row rows ih =>
    intro r acc
    simp only [drawRows, spritePoints, List.foldl_append, ih, drawRow_eq]

theorem mem_rowPoints {e : DrawEdge} {x0 : Fin 64} {y0 : Fin 32} {row : Byte} {r : Nat} {p : Fin 64 × Fin 32} :
    p ∈ rowPoints e x0 y0 row r ↔ ∃ c < 8, spriteBit row c = true ∧ landing e x0 y0 c r = some p := by
  simp [rowPoints]

/-- Which points a draw flips: where the set bits of its rows land. -/
theorem mem_spritePoints {e : DrawEdge} {x0 : Fin 64} {y0 : Fin 32} {p : Fin 64 × Fin 32} {rows : List Byte} :
    ∀ {r : Nat}, p ∈ spritePoints e x0 y0 rows r ↔
      ∃ j, ∃ h : j < rows.length, ∃ c < 8, spriteBit rows[j] c = true ∧ landing e x0 y0 c (r + j) = some p := by
  induction rows with
  | nil => intro r; simp [spritePoints]
  | cons row rows ih =>
    intro r
    rw [spritePoints, List.mem_append, mem_rowPoints, ih]
    constructor
    · rintro (⟨c, hc, hb, hl⟩ | ⟨j, hj, c, hc, hb, hl⟩)
      · exact ⟨0, by simp, c, hc, by simpa using hb, by simpa using hl⟩
      · exact ⟨j + 1, by simpa using hj, c, hc, by simpa using hb, by rw [← hl]; congr 1; omega⟩
    · rintro ⟨j, hj, c, hc, hb, hl⟩
      cases j with
      | zero => exact .inl ⟨c, hc, by simpa using hb, by simpa using hl⟩
      | succ j =>
        exact .inr ⟨j, by simpa using hj, c, hc, by simpa using hb, by rw [← hl]; congr 1; omega⟩

/-- A run of flips at distinct points: each of them is flipped once, and the collision bit says whether one of them was
set before the run. -/
theorem foldl_flipPoint {pts : List (Fin 64 × Fin 32)} :
    ∀ {acc : Frame × Bool}, pts.Nodup →
      (∀ px py, Frame.pixel (pts.foldl flipPoint acc).1 px py =
        (Frame.pixel acc.1 px py ^^ decide ((px, py) ∈ pts))) ∧
      (pts.foldl flipPoint acc).2 = (acc.2 || pts.any fun p => Frame.pixel acc.1 p.1 p.2) := by
  induction pts with
  | nil => intro acc _; simp
  | cons p pts ih =>
    intro acc hn
    obtain ⟨hp, hn⟩ := List.nodup_cons.1 hn
    obtain ⟨h1, h2⟩ := ih (acc := flipPoint acc p) hn
    have hoff : ∀ q ∈ pts, Frame.pixel (flipPoint acc p).1 q.1 q.2 = Frame.pixel acc.1 q.1 q.2 := by
      intro q hq
      have hne : ¬ (q.1 = p.1 ∧ q.2 = p.2) := fun h => hp (Prod.ext h.1 h.2 ▸ hq)
      simp [flipPoint, Frame.pixel_flip, hne]
    constructor
    · intro px py
      rw [List.foldl_cons, h1]
      simp only [flipPoint, Frame.pixel_flip, List.mem_cons]
      by_cases h : (px, py) = p
      · subst h
        simp [hp]
      · have hne : ¬ (px = p.1 ∧ py = p.2) := fun e => h (Prod.ext e.1 e.2)
        simp [h, hne]
    · rw [List.foldl_cons, h2, List.any_cons]
      have hc : (pts.any fun q => Frame.pixel (flipPoint acc p).1 q.1 q.2)
          = pts.any fun q => Frame.pixel acc.1 q.1 q.2 := by
        rw [Bool.eq_iff_iff]
        simp only [List.any_eq_true]
        constructor
        · rintro ⟨q, hq, h⟩; exact ⟨q, hq, by rw [← hoff q hq]; exact h⟩
        · rintro ⟨q, hq, h⟩; exact ⟨q, hq, by rw [hoff q hq]; exact h⟩
      rw [hc]
      simp [flipPoint, Bool.or_assoc]

end Sys2Proof.Machine
end

