-- ==== Sys2Proof/Laws/Exec.lean ====
section
/-! SUPPORT. What an instruction and a step can do, once: `exec_cases` and `step_cases` are the inversion lemmas that later
proofs cite in place of unfolding `exec` and `step`. -/

namespace Sys2Proof.Machine

/-- What no instruction writes, unless it faults: the key latch, LOAD_ERR, OPC, the fault status, the parameters and the
started mark. -/
structure KeptByExec (s t : State) : Prop where
  key : t.key = s.key
  loadErr : t.loadErr = s.loadErr
  opc : t.opc = s.opc
  fault : t.fault = s.fault
  fcause : t.fcause = s.fcause
  fpc : t.fpc = s.fpc
  params : t.params = s.params
  started : t.started = s.started

theorem KeptByExec.refl (s : State) : KeptByExec s s := ⟨rfl, rfl, rfl, rfl, rfl, rfl, rfl, rfl⟩

theorem KeptByExec.trans {s t u : State} (a : KeptByExec s t) (b : KeptByExec t u) : KeptByExec s u :=
  ⟨b.key.trans a.key, b.loadErr.trans a.loadErr, b.opc.trans a.opc, b.fault.trans a.fault,
    b.fcause.trans a.fcause, b.fpc.trans a.fpc, b.params.trans a.params, b.started.trans a.started⟩

theorem keptByExec_setReg (s : State) (x : Reg) (b : Byte) : KeptByExec s (s.setReg x b) := ⟨rfl, rfl, rfl, rfl, rfl, rfl, rfl, rfl⟩

theorem keptByExec_setRegs (s : State) (bs : List Byte) : KeptByExec s (s.setRegs bs) := by
  constructor <;> simp

theorem keptByExec_bumpI (s : State) (x : Reg) : KeptByExec s (s.bumpI x) := ⟨rfl, rfl, rfl, rfl, rfl, rfl, rfl, rfl⟩

theorem keptByExec_skipIf (s : State) (c : Bool) : KeptByExec s (s.skipIf c) := by
  cases c <;> exact ⟨rfl, rfl, rfl, rfl, rfl, rfl, rfl, rfl⟩

theorem keptByExec_flagThenReg (s : State) (f : Bool) (x : Reg) (r : State → Byte) :
    KeptByExec s (s.flagThenReg f x r) := ⟨rfl, rfl, rfl, rfl, rfl, rfl, rfl, rfl⟩

theorem keptByExec_flagThenI (s : State) (f : Bool) (r : State → Word) :
    KeptByExec s (s.flagThenI f r) := ⟨rfl, rfl, rfl, rfl, rfl, rfl, rfl, rfl⟩

theorem keptByExec_afterRand (s : State) : KeptByExec s s.afterRand := by
  unfold State.afterRand
  split <;> exact ⟨rfl, rfl, rfl, rfl, rfl, rfl, rfl, rfl⟩

theorem keptByExec_afterKeySelect (s : State) : KeptByExec s s.afterKeySelect := by
  unfold State.afterKeySelect
  split <;> exact ⟨rfl, rfl, rfl, rfl, rfl, rfl, rfl, rfl⟩

theorem keptByExec_setCollision (s : State) (hit : Bool) : KeptByExec s (s.setCollision hit) := by
  unfold State.setCollision
  split <;> exact ⟨rfl, rfl, rfl, rfl, rfl, rfl, rfl, rfl⟩

theorem keptByExec_drawSprite (s : State) (x y : Reg) (rows : List Byte) :
    KeptByExec s (s.drawSprite x y rows) := by
  have h := keptByExec_setCollision (s.setFb (drawRows s.params.drawEdge (startColumn (s.reg x))
    (startRow (s.reg y)) rows 0 (s.fb, false)).1) (drawRows s.params.drawEdge (startColumn (s.reg x))
    (startRow (s.reg y)) rows 0 (s.fb, false)).2
  exact ⟨h.key, h.loadErr, h.opc, h.fault, h.fcause, h.fpc, h.params, h.started⟩

theorem keptByExec_writeBytes {s t : State} {a : Nat} {xs : List Byte} (h : s.writeBytes a xs = .ok t) :
    KeptByExec s t := by
  rw [← State.writeBytes_keeps h]
  exact ⟨rfl, rfl, rfl, rfl, rfl, rfl, rfl, rfl⟩

theorem keptByExec_push {s t : State} {a : Word} (h : s.push a = .ok t) : KeptByExec s t := by
  unfold State.push at h
  split at h
  · cases h; exact ⟨rfl, rfl, rfl, rfl, rfl, rfl, rfl, rfl⟩
  · cases h

theorem keptByExec_pop {s t : State} {a : Word} (h : s.pop = .ok (a, t)) : KeptByExec s t := by
  unfold State.pop at h
  split at h
  · cases h; exact ⟨rfl, rfl, rfl, rfl, rfl, rfl, rfl, rfl⟩
  · cases h

/-- The end of a meaning: a halt, or its result, if the result keeps what instructions keep. -/
theorem State.orFault_kept {s t : State} {r : Except Fault State} (h : s.orFault r = .next t)
    (hr : ∀ u, r = .ok u → KeptByExec s u) : (∃ c : Fault, t = haltedWith c.code s) ∨ KeptByExec s t := by
  cases r with
  | ok u => cases h; exact .inr (hr _ rfl)
  | error c => cases h; exact .inl ⟨c, rfl⟩

/-- Every instruction answers a next state. -/
theorem exec_next (i : Instr) (s : State) : ∃ t, exec i s = .next t := by
  have orf : ∀ r : Except Fault State, ∃ t, s.orFault r = .next t := fun r => by
    cases r with
    | ok u => exact ⟨u, rfl⟩
    | error c => exact ⟨_, rfl⟩
  cases i with
  | ret => exact orf _
  | callAddr nnn => exact orf _
  | skpVx x => exact orf _
  | sknpVx x => exact orf _
  | drwVxVyNibble x y n => exact orf _
  | ldBVx x => exact orf _
  | ldMemVx x => exact orf _
  | ldVxMem x => exact orf _
  | ldVxK x =>
    change ∃ t, execLdVxK x s = .next t
    unfold execLdVxK
    split <;> exact ⟨_, rfl⟩
  | _ => exact ⟨_, rfl⟩

/-- An instruction halts with one of the five causes and changes nothing else, or keeps what instructions keep. -/
theorem exec_cases {i : Instr} {s t : State} (h : exec i s = .next t) :
    (∃ c : Fault, t = haltedWith c.code s) ∨ KeptByExec s t := by
  cases i with
  | ret =>
    refine State.orFault_kept h fun u hu => ?_
    split at hu
    next a v hp => cases hu; exact (keptByExec_pop hp).trans ⟨rfl, rfl, rfl, rfl, rfl, rfl, rfl, rfl⟩
    next => cases hu
  | callAddr nnn =>
    refine State.orFault_kept h fun u hu => ?_
    split at hu
    next v hp => cases hu; exact (keptByExec_push hp).trans ⟨rfl, rfl, rfl, rfl, rfl, rfl, rfl, rfl⟩
    next => cases hu
  | skpVx x =>
    refine State.orFault_kept h fun u hu => ?_
    split at hu
    · cases hu; exact keptByExec_skipIf s _
    · cases hu
  | sknpVx x =>
    refine State.orFault_kept h fun u hu => ?_
    split at hu
    · cases hu; exact keptByExec_skipIf s _
    · cases hu
  | drwVxVyNibble x y n =>
    refine State.orFault_kept h fun u hu => ?_
    split at hu
    · cases hu; exact keptByExec_drawSprite s x y _
    · cases hu
  | ldBVx x => exact State.orFault_kept h fun u hu => keptByExec_writeBytes hu
  | ldMemVx x =>
    refine State.orFault_kept h fun u hu => ?_
    split at hu
    next v hw => cases hu; exact (keptByExec_writeBytes hw).trans ⟨rfl, rfl, rfl, rfl, rfl, rfl, rfl, rfl⟩
    next => cases hu
  | ldVxMem x =>
    refine State.orFault_kept h fun u hu => ?_
    split at hu
    next bs hb =>
      injection hu with hu
      rw [← hu]
      exact (keptByExec_setRegs s bs).trans (keptByExec_bumpI _ x)
    next => cases hu
  | ldVxK x =>
    change execLdVxK x s = .next t at h
    unfold execLdVxK at h
    split at h
    · cases h; exact .inr ⟨rfl, rfl, rfl, rfl, rfl, rfl, rfl, rfl⟩
    · cases h; exact .inr ((keptByExec_afterKeySelect s).trans ⟨rfl, rfl, rfl, rfl, rfl, rfl, rfl, rfl⟩)
  | rndVxByte x nn => cases h; exact .inr ((keptByExec_afterRand s).trans ⟨rfl, rfl, rfl, rfl, rfl, rfl, rfl, rfl⟩)
  | seVxByte x nn => cases h; exact .inr (keptByExec_skipIf s _)
  | sneVxByte x nn => cases h; exact .inr (keptByExec_skipIf s _)
  | seVxVy x y => cases h; exact .inr (keptByExec_skipIf s _)
  | sneVxVy x y => cases h; exact .inr (keptByExec_skipIf s _)
  | cls => cases h; exact .inr ⟨rfl, rfl, rfl, rfl, rfl, rfl, rfl, rfl⟩
  | _ => injection h with h; exact .inr (h ▸ ⟨rfl, rfl, rfl, rfl, rfl, rfl, rfl, rfl⟩)

/-- What an instruction does to memory: nothing, or the run of writes of FX33 or FX55 from I on. -/
theorem exec_mem_cases {i : Instr} {s t : State} (h : exec i s = .next t) :
    t.mem = s.mem ∨ (∃ x u, i = .ldBVx x ∧ s.writeBytes (s.indexAddr 0) (bcdDigits (s.reg x)) = .ok u ∧ t = u) ∨
    (∃ x u, i = .ldMemVx x ∧ s.writeBytes (s.indexAddr 0) (s.regsUpTo x) = .ok u ∧ t = u.bumpI x) := by
  have orf : ∀ r : Except Fault State, s.orFault r = .next t → (∀ u, r = .ok u → u.mem = s.mem) → t.mem = s.mem := by
    intro r hr hu
    rcases State.orFault_cases hr with e | ⟨c, e, rfl⟩
    · exact hu _ e
    · rfl
  cases i with
  | ldBVx x =>
    rcases State.orFault_cases (show s.orFault _ = _ from h) with e | ⟨c, e, rfl⟩
    · exact .inr (.inl ⟨x, _, rfl, e, rfl⟩)
    · exact .inl rfl
  | ldMemVx x =>
    rcases State.orFault_cases (show s.orFault _ = _ from h) with e | ⟨c, e, rfl⟩
    · split at e
      · cases e; exact .inr (.inr ⟨x, _, rfl, ‹_›, rfl⟩)
      · cases e
    · exact .inl rfl
  | ret =>
    refine .inl (orf _ h fun u hu => ?_)
    split at hu
    · cases hu; rename_i hp; unfold State.pop at hp; split at hp
      · cases hp; rfl
      · cases hp
    · cases hu
  | callAddr nnn =>
    refine .inl (orf _ h fun u hu => ?_)
    split at hu
    · cases hu; rename_i hp; unfold State.push at hp; split at hp
      · cases hp; rfl
      · cases hp
    · cases hu
  | skpVx x =>
    refine .inl (orf _ h fun u hu => ?_)
    split at hu
    · cases hu; unfold State.skipIf; split <;> rfl
    · cases hu
  | sknpVx x =>
    refine .inl (orf _ h fun u hu => ?_)
    split at hu
    · cases hu; unfold State.skipIf; split <;> rfl
    · cases hu
  | drwVxVyNibble x y n =>
    refine .inl (orf _ h fun u hu => ?_)
    split at hu
    · cases hu; unfold State.drawSprite State.finishDraw State.setCollision; split <;> rfl
    · cases hu
  | ldVxMem x =>
    refine .inl (orf _ h fun u hu => ?_)
    split at hu
    · injection hu with hu; rw [← hu]; simp [State.bumpI]
    · cases hu
  | ldVxK x =>
    change execLdVxK x s = .next t at h
    unfold execLdVxK at h
    split at h
    · cases h; exact .inl rfl
    · cases h; left; simp; unfold State.afterKeySelect; split <;> rfl
  | rndVxByte x nn => cases h; left; simp; unfold State.afterRand; split <;> rfl
  | seVxByte x nn => cases h; left; unfold State.skipIf; split <;> rfl
  | sneVxByte x nn => cases h; left; unfold State.skipIf; split <;> rfl
  | seVxVy x y => cases h; left; unfold State.skipIf; split <;> rfl
  | sneVxVy x y => cases h; left; unfold State.skipIf; split <;> rfl
  | _ => injection h with h; exact .inl (h ▸ rfl)

/-- Two states with the same memory and font read alike. -/
theorem State.byteAt_congr {s t : State} (h1 : t.mem = s.mem) (h2 : t.params = s.params) (a : Nat) : t.byteAt a = s.byteAt a := by
  simp [State.byteAt, h1, h2]

/-- No instruction changes the parameters. -/
theorem exec_params {i : Instr} {s t : State} (h : exec i s = .next t) : t.params = s.params := by
  rcases exec_cases h with ⟨c, rfl⟩ | k
  · rfl
  · exact k.params

/-- Every instruction keeps the canonical form of memory. -/
theorem exec_memoryOk {i : Instr} {s t : State} (hm : MemoryOk s) (h : exec i s = .next t) : MemoryOk t := by
  unfold MemoryOk
  rw [exec_params h]
  rcases exec_mem_cases h with e | ⟨x, u, rfl, e, rfl⟩ | ⟨x, u, rfl, e, rfl⟩
  · rw [e]; exact hm
  · have := State.writeBytes_wf hm e; unfold MemoryOk at this; rwa [State.writeBytes_params e] at this
  · have := State.writeBytes_wf hm e; unfold MemoryOk at this; rw [State.writeBytes_params e] at this; exact this

/-- What a step can do (40_step_cycle.md R128): nothing while halted; the fault of its fetch; the no-op; or the decoded
instruction, on the state after fetch and advance. -/
theorem step_cases {s t : State} (h : step s = .next t) :
    s.started = true ∧
    ((s.fault = true ∧ t = s) ∨
     (s.fault = false ∧ ∃ c, s.fetch = .error c ∧ t = s.enterFault c s.pc s.opc) ∨
     (s.fault = false ∧ ∃ w, s.fetch = .ok w ∧ decode s.params w = .noOp ∧ t = s.advance w) ∨
     (s.fault = false ∧ ∃ w i, s.fetch = .ok w ∧ decode s.params w = .instr i ∧
        exec i (s.advance w) = .next t)) := by
  unfold step stepCore at h
  split at h
  next hs =>
    refine ⟨hs, ?_⟩
    split at h
    next hf => cases h; exact .inl ⟨hf, rfl⟩
    next hf =>
      have hf : s.fault = false := by simpa using hf
      unfold runStep at h
      split at h
      next c hc => cases h; exact .inr (.inl ⟨hf, c, hc, rfl⟩)
      next w hw =>
        cases hd : decode s.params w with
        | noOp => rw [hd] at h; cases h; exact .inr (.inr (.inl ⟨hf, w, hw, hd, rfl⟩))
        | instr i => rw [hd] at h; exact .inr (.inr (.inr ⟨hf, w, i, hw, hd, h⟩))
  next => cases h

/-- The only fault a fetch raises is ADDRESS_RANGE. -/
theorem State.fetch_error {s : State} {c : Fault} (h : s.fetch = .error c) :
    c = .addressRange ∧ s.params.addrPolicy = .fault ∧ 0xFFE < s.pc.toNat := by
  unfold State.fetch at h
  split at h
  next d hd =>
    cases h
    obtain ⟨hp, ha, hc⟩ := State.memRead_error hd
    exact ⟨‹_›, ‹_›, by omega⟩
  next hi hhi =>
    split at h
    next d hd =>
      cases h
      obtain ⟨hp, ha, hc⟩ := State.memRead_error hd
      exact ⟨‹_›, ‹_›, by omega⟩
    next => cases h

/-- The fetch of a PC whose two addresses the policy admits. -/
theorem State.fetch_ok {s : State} (h : s.params.addrPolicy = .wrap ∨ s.pc.toNat ≤ 0xFFE) :
    s.fetch = .ok (wordOfBytes (s.byteAt (s.pc.toNat % 4096)) (s.byteAt ((s.pc.toNat + 1) % 4096))) := by
  have h1 : s.params.addrPolicy = .wrap ∨ s.pc.toNat ≤ 0xFFF := h.imp id (by omega)
  have h2 : s.params.addrPolicy = .wrap ∨ s.pc.toNat + 1 ≤ 0xFFF := h.imp id (by omega)
  simp [State.fetch, State.memRead_ok h1, State.memRead_ok h2]

end Sys2Proof.Machine
end

