-- ==== Sys2Proof/Laws/Fields.lean ====
section
/-! SUPPORT. The fields of the three word layouts of 30_encoding.md R91. -/

namespace Sys2Proof

section
variable (f : Nibble) (x y : Reg) (n : Nibble) (nn : Byte) (nnn : Addr)

@[simp] theorem fieldFamily_formNNN : fieldFamily (formNNN f nnn) = f := by
  apply BitVec.eq_of_getLsbD_eq
  intro i hi
  simp only [formNNN, fieldFamily, BitVec.getLsbD_extractLsb', BitVec.getLsbD_append]
  interval_cases i <;> simp

@[simp] theorem fieldFamily_formXNN : fieldFamily (formXNN f x nn) = f := by
  apply BitVec.eq_of_getLsbD_eq
  intro i hi
  simp only [formXNN, fieldFamily, BitVec.getLsbD_extractLsb', BitVec.getLsbD_append]
  interval_cases i <;> simp

@[simp] theorem fieldFamily_formXYN : fieldFamily (formXYN f x y n) = f := by
  apply BitVec.eq_of_getLsbD_eq
  intro i hi
  simp only [formXYN, fieldFamily, BitVec.getLsbD_extractLsb', BitVec.getLsbD_append]
  interval_cases i <;> simp

@[simp] theorem fieldNNN_formNNN : fieldNNN (formNNN f nnn) = nnn := by
  apply BitVec.eq_of_getLsbD_eq
  intro i hi
  simp only [formNNN, fieldNNN, BitVec.getLsbD_extractLsb', BitVec.getLsbD_append]
  interval_cases i <;> simp

@[simp] theorem fieldNN_formXNN : fieldNN (formXNN f x nn) = nn := by
  apply BitVec.eq_of_getLsbD_eq
  intro i hi
  simp only [formXNN, fieldNN, BitVec.getLsbD_extractLsb', BitVec.getLsbD_append]
  interval_cases i <;> simp

@[simp] theorem fieldN_formXYN : fieldN (formXYN f x y n) = n := by
  apply BitVec.eq_of_getLsbD_eq
  intro i hi
  simp only [formXYN, fieldN, BitVec.getLsbD_extractLsb', BitVec.getLsbD_append]
  interval_cases i <;> simp

@[simp] theorem fieldX_formXNN : fieldX (formXNN f x nn) = x := by
  have h : ((formXNN f x nn).extractLsb' 8 4 : Nibble) = BitVec.ofFin x := by
    apply BitVec.eq_of_getLsbD_eq
    intro i hi
    simp only [formXNN, BitVec.getLsbD_extractLsb', BitVec.getLsbD_append]
    interval_cases i <;> simp
  rw [fieldX, h]

@[simp] theorem fieldX_formXYN : fieldX (formXYN f x y n) = x := by
  have h : ((formXYN f x y n).extractLsb' 8 4 : Nibble) = BitVec.ofFin x := by
    apply BitVec.eq_of_getLsbD_eq
    intro i hi
    simp only [formXYN, BitVec.getLsbD_extractLsb', BitVec.getLsbD_append]
    interval_cases i <;> simp
  rw [fieldX, h]

@[simp] theorem fieldY_formXYN : fieldY (formXYN f x y n) = y := by
  have h : ((formXYN f x y n).extractLsb' 4 4 : Nibble) = BitVec.ofFin y := by
    apply BitVec.eq_of_getLsbD_eq
    intro i hi
    simp only [formXYN, BitVec.getLsbD_extractLsb', BitVec.getLsbD_append]
    interval_cases i <;> simp
  rw [fieldY, h]

/-- The low nibble of the layout `family X NN` is that of its byte. -/
@[simp] theorem fieldN_formXNN : fieldN (formXNN f x nn) = nn.extractLsb' 0 4 := by
  apply BitVec.eq_of_getLsbD_eq
  intro i hi
  simp only [formXNN, fieldN, BitVec.getLsbD_extractLsb', BitVec.getLsbD_append]
  interval_cases i <;> simp

end

/-! ### Words under the masks of R101 -/

/-- A word under the mask 0xF000 is its family. -/
theorem and_F000 (w : Word) : w &&& 0xF000 = formNNN (fieldFamily w) 0 := by
  apply BitVec.eq_of_getLsbD_eq
  intro i hi
  simp only [formNNN, fieldFamily, BitVec.getLsbD_extractLsb', BitVec.getLsbD_append, BitVec.getLsbD_and]
  interval_cases i <;> simp

/-- A word under the mask 0xF00F is its family and its low nibble. -/
theorem and_F00F (w : Word) : w &&& 0xF00F = formXYN (fieldFamily w) 0 0 (fieldN w) := by
  apply BitVec.eq_of_getLsbD_eq
  intro i hi
  simp only [formXYN, fieldFamily, fieldN, BitVec.getLsbD_extractLsb', BitVec.getLsbD_append, BitVec.getLsbD_and]
  interval_cases i <;> simp

/-- A word under the mask 0xF0FF is its family and its low byte. -/
theorem and_F0FF (w : Word) : w &&& 0xF0FF = formXNN (fieldFamily w) 0 (fieldNN w) := by
  apply BitVec.eq_of_getLsbD_eq
  intro i hi
  simp only [formXNN, fieldFamily, fieldNN, BitVec.getLsbD_extractLsb', BitVec.getLsbD_append, BitVec.getLsbD_and]
  interval_cases i <;> simp

end Sys2Proof
end

