-- ==== Sys2Proof/Laws/Observe.lean ====
section
/-! SUPPORT. What the host can read: the list of observable bits leaves none out, and when a read of the output ports is
answered. -/

namespace Sys2Proof.Machine

theorem mem_bitsOf {n : Nat} (f : Fin n → ObsBit) (b : Fin n) : f b ∈ bitsOf n f :=
  List.mem_map_of_mem (List.mem_finRange b)

theorem mem_bitsOfArray {m n : Nat} (f : Fin m → Fin n → ObsBit) (k : Fin m) (b : Fin n) :
    f k b ∈ bitsOfArray m n f :=
  List.mem_flatMap.2 ⟨k, List.mem_finRange k, mem_bitsOf (f k) b⟩

/-- Every observable bit is in the list (60_exceptions.md R274). -/
theorem mem_allObsBits (b : ObsBit) : b ∈ allObsBits := by
  unfold allObsBits
  simp only [List.mem_append]
  cases b <;> simp only [mem_bitsOf, mem_bitsOfArray, List.mem_singleton, true_or, or_true]

/-- States that agree on every observable bit show the same on the observation port, under every P_OBS_MAP. -/
theorem State.obsPort_congr {s t : State} (hp : t.params = s.params) (h : ∀ b, t.obsBit b = s.obsBit b) :
    t.obsPort = s.obsPort := by
  unfold State.obsPort
  rw [hp, funext h]

section
variable {α : Type} (m : PortState) (value : α)

theorem PortState.whenReadable_busy (h : m.busy = true) : m.whenReadable value = .refused .portBusy := by
  simp [PortState.whenReadable, h]

theorem PortState.whenReadable_powerOn (h : m.busy = false) (hs : m.core.started = false) :
    m.whenReadable value = .refused .beforeFirstReset := by
  simp [PortState.whenReadable, h, hs]

theorem PortState.whenReadable_next (h : m.busy = false) (hs : m.core.started = true) :
    m.whenReadable value = .next value := by
  simp [PortState.whenReadable, h, hs]

end

end Sys2Proof.Machine
end

