-- ==== Sys2Proof/Laws/PerInstr.lean ====
section
/-! SUPPORT. For every instruction: its encoded word is in its own row of the opcode map (30_encoding.md R101), and the
row's fields give it back. -/

namespace Sys2Proof.Laws.EncodeRow

/-- The encoded word matches a row of R101 whose fields spell the instruction. -/
def Statement (i : Instr) : Prop :=
  ∃ r ∈ opcodeTable, encode i &&& r.mask = r.value ∧ r.build (encode i) = i

/-- A row of the table given by its place. -/
theorem of_row {i : Instr} (k : Nat) (hk : k < opcodeTable.length)
    (hm : encode i &&& opcodeTable[k].mask = opcodeTable[k].value)
    (hb : opcodeTable[k].build (encode i) = i) : Statement i :=
  ⟨opcodeTable[k], List.getElem_mem hk, hm, hb⟩

theorem cls : Statement .cls := of_row 0 (by decide) (by decide) rfl

theorem ret : Statement .ret := of_row 1 (by decide) (by decide) rfl

theorem jpAddr (nnn : Addr) : Statement (.jpAddr nnn) :=
  of_row 2 (by decide)
    (by
      show encode (.jpAddr nnn) &&& 0xF000 = 0x1000
      rw [and_F000]
      simp [encode]
      decide)
    (by
      show opcodeTable[2].build (encode (.jpAddr nnn)) = (.jpAddr nnn)
      simp [opcodeTable, opcodeRowsA, opcodeRowsB, opcodeRowsC, opcodeRowsD, encode])

theorem callAddr (nnn : Addr) : Statement (.callAddr nnn) :=
  of_row 3 (by decide)
    (by
      show encode (.callAddr nnn) &&& 0xF000 = 0x2000
      rw [and_F000]
      simp [encode]
      decide)
    (by
      show opcodeTable[3].build (encode (.callAddr nnn)) = (.callAddr nnn)
      simp [opcodeTable, opcodeRowsA, opcodeRowsB, opcodeRowsC, opcodeRowsD, encode])

theorem seVxByte (x : Reg) (nn : Byte) : Statement (.seVxByte x nn) :=
  of_row 4 (by decide)
    (by
      show encode (.seVxByte x nn) &&& 0xF000 = 0x3000
      rw [and_F000]
      simp [encode]
      decide)
    (by
      show opcodeTable[4].build (encode (.seVxByte x nn)) = (.seVxByte x nn)
      simp [opcodeTable, opcodeRowsA, opcodeRowsB, opcodeRowsC, opcodeRowsD, encode])

theorem sneVxByte (x : Reg) (nn : Byte) : Statement (.sneVxByte x nn) :=
  of_row 5 (by decide)
    (by
      show encode (.sneVxByte x nn) &&& 0xF000 = 0x4000
      rw [and_F000]
      simp [encode]
      decide)
    (by
      show opcodeTable[5].build (encode (.sneVxByte x nn)) = (.sneVxByte x nn)
      simp [opcodeTable, opcodeRowsA, opcodeRowsB, opcodeRowsC, opcodeRowsD, encode])

theorem seVxVy (x y : Reg) : Statement (.seVxVy x y) :=
  of_row 6 (by decide)
    (by
      show encode (.seVxVy x y) &&& 0xF000 = 0x5000
      rw [and_F000]
      simp [encode]
      decide)
    (by
      show opcodeTable[6].build (encode (.seVxVy x y)) = (.seVxVy x y)
      simp [opcodeTable, opcodeRowsA, opcodeRowsB, opcodeRowsC, opcodeRowsD, encode])

theorem ldVxByte (x : Reg) (nn : Byte) : Statement (.ldVxByte x nn) :=
  of_row 7 (by decide)
    (by
      show encode (.ldVxByte x nn) &&& 0xF000 = 0x6000
      rw [and_F000]
      simp [encode]
      decide)
    (by
      show opcodeTable[7].build (encode (.ldVxByte x nn)) = (.ldVxByte x nn)
      simp [opcodeTable, opcodeRowsA, opcodeRowsB, opcodeRowsC, opcodeRowsD, encode])

theorem addVxByte (x : Reg) (nn : Byte) : Statement (.addVxByte x nn) :=
  of_row 8 (by decide)
    (by
      show encode (.addVxByte x nn) &&& 0xF000 = 0x7000
      rw [and_F000]
      simp [encode]
      decide)
    (by
      show opcodeTable[8].build (encode (.addVxByte x nn)) = (.addVxByte x nn)
      simp [opcodeTable, opcodeRowsA, opcodeRowsB, opcodeRowsC, opcodeRowsD, encode])

theorem ldVxVy (x y : Reg) : Statement (.ldVxVy x y) :=
  of_row 9 (by decide)
    (by
      show encode (.ldVxVy x y) &&& 0xF00F = 0x8000
      rw [and_F00F]
      simp [encode]
      decide)
    (by
      show opcodeTable[9].build (encode (.ldVxVy x y)) = (.ldVxVy x y)
      simp [opcodeTable, opcodeRowsA, opcodeRowsB, opcodeRowsC, opcodeRowsD, encode])

theorem orVxVy (x y : Reg) : Statement (.orVxVy x y) :=
  of_row 10 (by decide)
    (by
      show encode (.orVxVy x y) &&& 0xF00F = 0x8001
      rw [and_F00F]
      simp [encode]
      decide)
    (by
      show opcodeTable[10].build (encode (.orVxVy x y)) = (.orVxVy x y)
      simp [opcodeTable, opcodeRowsA, opcodeRowsB, opcodeRowsC, opcodeRowsD, encode])

theorem andVxVy (x y : Reg) : Statement (.andVxVy x y) :=
  of_row 11 (by decide)
    (by
      show encode (.andVxVy x y) &&& 0xF00F = 0x8002
      rw [and_F00F]
      simp [encode]
      decide)
    (by
      show opcodeTable[11].build (encode (.andVxVy x y)) = (.andVxVy x y)
      simp [opcodeTable, opcodeRowsA, opcodeRowsB, opcodeRowsC, opcodeRowsD, encode])

theorem xorVxVy (x y : Reg) : Statement (.xorVxVy x y) :=
  of_row 12 (by decide)
    (by
      show encode (.xorVxVy x y) &&& 0xF00F = 0x8003
      rw [and_F00F]
      simp [encode]
      decide)
    (by
      show opcodeTable[12].build (encode (.xorVxVy x y)) = (.xorVxVy x y)
      simp [opcodeTable, opcodeRowsA, opcodeRowsB, opcodeRowsC, opcodeRowsD, encode])

theorem addVxVy (x y : Reg) : Statement (.addVxVy x y) :=
  of_row 13 (by decide)
    (by
      show encode (.addVxVy x y) &&& 0xF00F = 0x8004
      rw [and_F00F]
      simp [encode]
      decide)
    (by
      show opcodeTable[13].build (encode (.addVxVy x y)) = (.addVxVy x y)
      simp [opcodeTable, opcodeRowsA, opcodeRowsB, opcodeRowsC, opcodeRowsD, encode])

theorem subVxVy (x y : Reg) : Statement (.subVxVy x y) :=
  of_row 14 (by decide)
    (by
      show encode (.subVxVy x y) &&& 0xF00F = 0x8005
      rw [and_F00F]
      simp [encode]
      decide)
    (by
      show opcodeTable[14].build (encode (.subVxVy x y)) = (.subVxVy x y)
      simp [opcodeTable, opcodeRowsA, opcodeRowsB, opcodeRowsC, opcodeRowsD, encode])

theorem shrVxVy (x y : Reg) : Statement (.shrVxVy x y) :=
  of_row 15 (by decide)
    (by
      show encode (.shrVxVy x y) &&& 0xF00F = 0x8006
      rw [and_F00F]
      simp [encode]
      decide)
    (by
      show opcodeTable[15].build (encode (.shrVxVy x y)) = (.shrVxVy x y)
      simp [opcodeTable, opcodeRowsA, opcodeRowsB, opcodeRowsC, opcodeRowsD, encode])

theorem subnVxVy (x y : Reg) : Statement (.subnVxVy x y) :=
  of_row 16 (by decide)
    (by
      show encode (.subnVxVy x y) &&& 0xF00F = 0x8007
      rw [and_F00F]
      simp [encode]
      decide)
    (by
      show opcodeTable[16].build (encode (.subnVxVy x y)) = (.subnVxVy x y)
      simp [opcodeTable, opcodeRowsA, opcodeRowsB, opcodeRowsC, opcodeRowsD, encode])

theorem shlVxVy (x y : Reg) : Statement (.shlVxVy x y) :=
  of_row 17 (by decide)
    (by
      show encode (.shlVxVy x y) &&& 0xF00F = 0x800E
      rw [and_F00F]
      simp [encode]
      decide)
    (by
      show opcodeTable[17].build (encode (.shlVxVy x y)) = (.shlVxVy x y)
      simp [opcodeTable, opcodeRowsA, opcodeRowsB, opcodeRowsC, opcodeRowsD, encode])

theorem sneVxVy (x y : Reg) : Statement (.sneVxVy x y) :=
  of_row 18 (by decide)
    (by
      show encode (.sneVxVy x y) &&& 0xF000 = 0x9000
      rw [and_F000]
      simp [encode]
      decide)
    (by
      show opcodeTable[18].build (encode (.sneVxVy x y)) = (.sneVxVy x y)
      simp [opcodeTable, opcodeRowsA, opcodeRowsB, opcodeRowsC, opcodeRowsD, encode])

theorem ldIAddr (nnn : Addr) : Statement (.ldIAddr nnn) :=
  of_row 19 (by decide)
    (by
      show encode (.ldIAddr nnn) &&& 0xF000 = 0xA000
      rw [and_F000]
      simp [encode]
      decide)
    (by
      show opcodeTable[19].build (encode (.ldIAddr nnn)) = (.ldIAddr nnn)
      simp [opcodeTable, opcodeRowsA, opcodeRowsB, opcodeRowsC, opcodeRowsD, encode])

theorem jpV0Addr (nnn : Addr) : Statement (.jpV0Addr nnn) :=
  of_row 20 (by decide)
    (by
      show encode (.jpV0Addr nnn) &&& 0xF000 = 0xB000
      rw [and_F000]
      simp [encode]
      decide)
    (by
      show opcodeTable[20].build (encode (.jpV0Addr nnn)) = (.jpV0Addr nnn)
      simp [opcodeTable, opcodeRowsA, opcodeRowsB, opcodeRowsC, opcodeRowsD, encode])

theorem rndVxByte (x : Reg) (nn : Byte) : Statement (.rndVxByte x nn) :=
  of_row 21 (by decide)
    (by
      show encode (.rndVxByte x nn) &&& 0xF000 = 0xC000
      rw [and_F000]
      simp [encode]
      decide)
    (by
      show opcodeTable[21].build (encode (.rndVxByte x nn)) = (.rndVxByte x nn)
      simp [opcodeTable, opcodeRowsA, opcodeRowsB, opcodeRowsC, opcodeRowsD, encode])

theorem drwVxVyNibble (x y : Reg) (n : Nibble) : Statement (.drwVxVyNibble x y n) :=
  of_row 22 (by decide)
    (by
      show encode (.drwVxVyNibble x y n) &&& 0xF000 = 0xD000
      rw [and_F000]
      simp [encode]
      decide)
    (by
      show opcodeTable[22].build (encode (.drwVxVyNibble x y n)) = (.drwVxVyNibble x y n)
      simp [opcodeTable, opcodeRowsA, opcodeRowsB, opcodeRowsC, opcodeRowsD, encode])

theorem skpVx (x : Reg) : Statement (.skpVx x) :=
  of_row 23 (by decide)
    (by
      show encode (.skpVx x) &&& 0xF0FF = 0xE09E
      rw [and_F0FF]
      simp [encode]
      decide)
    (by
      show opcodeTable[23].build (encode (.skpVx x)) = (.skpVx x)
      simp [opcodeTable, opcodeRowsA, opcodeRowsB, opcodeRowsC, opcodeRowsD, encode])

theorem sknpVx (x : Reg) : Statement (.sknpVx x) :=
  of_row 24 (by decide)
    (by
      show encode (.sknpVx x) &&& 0xF0FF = 0xE0A1
      rw [and_F0FF]
      simp [encode]
      decide)
    (by
      show opcodeTable[24].build (encode (.sknpVx x)) = (.sknpVx x)
      simp [opcodeTable, opcodeRowsA, opcodeRowsB, opcodeRowsC, opcodeRowsD, encode])

theorem ldVxDT (x : Reg) : Statement (.ldVxDT x) :=
  of_row 25 (by decide)
    (by
      show encode (.ldVxDT x) &&& 0xF0FF = 0xF007
      rw [and_F0FF]
      simp [encode]
      decide)
    (by
      show opcodeTable[25].build (encode (.ldVxDT x)) = (.ldVxDT x)
      simp [opcodeTable, opcodeRowsA, opcodeRowsB, opcodeRowsC, opcodeRowsD, encode])

theorem ldVxK (x : Reg) : Statement (.ldVxK x) :=
  of_row 26 (by decide)
    (by
      show encode (.ldVxK x) &&& 0xF0FF = 0xF00A
      rw [and_F0FF]
      simp [encode]
      decide)
    (by
      show opcodeTable[26].build (encode (.ldVxK x)) = (.ldVxK x)
      simp [opcodeTable, opcodeRowsA, opcodeRowsB, opcodeRowsC, opcodeRowsD, encode])

theorem ldDTVx (x : Reg) : Statement (.ldDTVx x) :=
  of_row 27 (by decide)
    (by
      show encode (.ldDTVx x) &&& 0xF0FF = 0xF015
      rw [and_F0FF]
      simp [encode]
      decide)
    (by
      show opcodeTable[27].build (encode (.ldDTVx x)) = (.ldDTVx x)
      simp [opcodeTable, opcodeRowsA, opcodeRowsB, opcodeRowsC, opcodeRowsD, encode])

theorem ldSTVx (x : Reg) : Statement (.ldSTVx x) :=
  of_row 28 (by decide)
    (by
      show encode (.ldSTVx x) &&& 0xF0FF = 0xF018
      rw [and_F0FF]
      simp [encode]
      decide)
    (by
      show opcodeTable[28].build (encode (.ldSTVx x)) = (.ldSTVx x)
      simp [opcodeTable, opcodeRowsA, opcodeRowsB, opcodeRowsC, opcodeRowsD, encode])

theorem addIVx (x : Reg) : Statement (.addIVx x) :=
  of_row 29 (by decide)
    (by
      show encode (.addIVx x) &&& 0xF0FF = 0xF01E
      rw [and_F0FF]
      simp [encode]
      decide)
    (by
      show opcodeTable[29].build (encode (.addIVx x)) = (.addIVx x)
      simp [opcodeTable, opcodeRowsA, opcodeRowsB, opcodeRowsC, opcodeRowsD, encode])

theorem ldFVx (x : Reg) : Statement (.ldFVx x) :=
  of_row 30 (by decide)
    (by
      show encode (.ldFVx x) &&& 0xF0FF = 0xF029
      rw [and_F0FF]
      simp [encode]
      decide)
    (by
      show opcodeTable[30].build (encode (.ldFVx x)) = (.ldFVx x)
      simp [opcodeTable, opcodeRowsA, opcodeRowsB, opcodeRowsC, opcodeRowsD, encode])

theorem ldBVx (x : Reg) : Statement (.ldBVx x) :=
  of_row 31 (by decide)
    (by
      show encode (.ldBVx x) &&& 0xF0FF = 0xF033
      rw [and_F0FF]
      simp [encode]
      decide)
    (by
      show opcodeTable[31].build (encode (.ldBVx x)) = (.ldBVx x)
      simp [opcodeTable, opcodeRowsA, opcodeRowsB, opcodeRowsC, opcodeRowsD, encode])

theorem ldMemVx (x : Reg) : Statement (.ldMemVx x) :=
  of_row 32 (by decide)
    (by
      show encode (.ldMemVx x) &&& 0xF0FF = 0xF055
      rw [and_F0FF]
      simp [encode]
      decide)
    (by
      show opcodeTable[32].build (encode (.ldMemVx x)) = (.ldMemVx x)
      simp [opcodeTable, opcodeRowsA, opcodeRowsB, opcodeRowsC, opcodeRowsD, encode])

theorem ldVxMem (x : Reg) : Statement (.ldVxMem x) :=
  of_row 33 (by decide)
    (by
      show encode (.ldVxMem x) &&& 0xF0FF = 0xF065
      rw [and_F0FF]
      simp [encode]
      decide)
    (by
      show opcodeTable[33].build (encode (.ldVxMem x)) = (.ldVxMem x)
      simp [opcodeTable, opcodeRowsA, opcodeRowsB, opcodeRowsC, opcodeRowsD, encode])

end Sys2Proof.Laws.EncodeRow
end

