-- ==== Sys2Proof/Machine/Asm.lean ====
section
/-! DEFINITION. The text of a source line (30_encoding.md R105): reading the mnemonic and the operands from characters. The hex
word is normative and the syntax is notation (92 D18); what the spec leaves open of it is log entry 17. -/

namespace Sys2Proof

/-- The letters, each with its lower-case form. Mnemonics, register names and hexadecimal digits are read in either case
(log entry 17). -/
def letterCases : List (Char × Char) :=
  "abcdefghijklmnopqrstuvwxyz".toList.zip "ABCDEFGHIJKLMNOPQRSTUVWXYZ".toList

/-- A character with a letter in upper case. -/
def upperCase (c : Char) : Char := (letterCases.lookup c).getD c

/-- The sixteen digits in order of their value; the decimal ones are the first ten. -/
def digitChars : List Char := "0123456789ABCDEF".toList

/-- A digit of a numeral in base 10 or 16: its place among the first `base` digits. -/
def digitIn (base : Nat) (c : Char) : Option Nat := (digitChars.take base).findIdx? (· == upperCase c)

/-- The number the digits spell, if every one of them is a digit. -/
def numeral (base : Nat) (ds : List Char) : Option Nat :=
  ds.foldl (fun n c => n.bind fun k => (digitIn base c).map (k * base + ·)) (some 0)

/-- "Numbers are written in decimal or with a `0x` prefix in hexadecimal" (R105). A numeral has a digit. -/
def parseNumber (text : List Char) : Option Nat :=
  let hex := text.take 2 == ['0', 'x']
  let digits := if hex then text.drop 2 else text
  if digits.isEmpty then none else numeral (if hex then 16 else 10) digits

/-- White space between the parts of a line. -/
def isBlank (c : Char) : Bool := c == ' ' || c == '\t'

/-- Characters without the white space around them. -/
def trimBlanks (cs : List Char) : List Char := ((cs.dropWhile isBlank).reverse.dropWhile isBlank).reverse

/-- The parts of a text between commas. -/
def splitCommas : List Char → List (List Char)
  | [] => [[]]
  | c :: cs =>
    if c == ',' then [] :: splitCommas cs
    else
      match splitCommas cs with
      | [] => [[c]]
      | p :: ps => (c :: p) :: ps

/-- One operand (R105): a fixed operand spelled literally, a register name V0 to VF in either case, or a number. -/
def parseOperand (text : List Char) : Option Operand :=
  match text.map upperCase with
  | ['I'] => some .i
  | ['D', 'T'] => some .dt
  | ['S', 'T'] => some .st
  | ['K'] => some .key
  | ['F'] => some .font
  | ['B'] => some .bcd
  | ['[', 'I', ']'] => some .memI
  | ['V', d] => (digitIn 16 d).map .v
  | _ => (parseNumber text).map .num

/-- Every operand of a list, or none of them. -/
def parseOperands : List (List Char) → Option (List Operand)
  | [] => some []
  | t :: ts =>
    match parseOperand (trimBlanks t), parseOperands ts with
    | some o, some os => some (o :: os)
    | _, _ => none

/-- The mnemonic words of R101, and `.word`. -/
def parseMnemonic (text : List Char) : Option Mnemonic :=
  match text.map upperCase with
  | ['C', 'L', 'S'] => some .cls
  | ['R', 'E', 'T'] => some .ret
  | ['J', 'P'] => some .jp
  | ['C', 'A', 'L', 'L'] => some .call
  | ['S', 'E'] => some .se
  | ['S', 'N', 'E'] => some .sne
  | ['L', 'D'] => some .ld
  | ['A', 'D', 'D'] => some .add
  | ['O', 'R'] => some .or
  | ['A', 'N', 'D'] => some .and
  | ['X', 'O', 'R'] => some .xor
  | ['S', 'U', 'B'] => some .sub
  | ['S', 'H', 'R'] => some .shr
  | ['S', 'U', 'B', 'N'] => some .subn
  | ['S', 'H', 'L'] => some .shl
  | ['R', 'N', 'D'] => some .rnd
  | ['D', 'R', 'W'] => some .drw
  | ['S', 'K', 'P'] => some .skp
  | ['S', 'K', 'N', 'P'] => some .sknp
  | ['.', 'W', 'O', 'R', 'D'] => some .word
  | _ => none

/-- A source line: the mnemonic, white space, and the operands between commas. -/
def parseLine (text : List Char) : Option SourceLine :=
  let line := trimBlanks text
  let word := line.takeWhile (fun c => !isBlank c)
  let rest := trimBlanks (line.dropWhile (fun c => !isBlank c))
  match parseMnemonic word, (if rest.isEmpty then some [] else parseOperands (splitCommas rest)) with
  | some m, some os => some ⟨m, os⟩
  | _, _ => none

/-- The word of a line of text, or nothing for a line the assembler refuses (R105). -/
def assembleText (text : List Char) : Option Word :=
  match parseLine text with
  | some l => assemble l
  | none => none

end Sys2Proof
end

