-- ==== Sys2Proof/Tests/Slice0.lean ====
section
/-! SUPPORT. The model's own tests. Words are written out from the patterns of 30_encoding.md R101, and expected results are
those of the vectors of 95_test_vectors.md (named in each docstring) or are computed by hand from the cited
rule. The last part gives, for every statement with hypotheses, a concrete state that meets them. -/

namespace Sys2Proof.Tests

open Sys2Proof Sys2Proof.Machine

/-! ### Helpers -/

/-- The outcome is a next state that passes the check. -/
def passes (o : Host.Outcome State Fault Refusal) (check : State → Bool) : Bool :=
  match o with
  | .next t => check t
  | .fault _ => false
  | .refused _ => false

/-- The reset state with some registers set. -/
def withRegs (l : List (Reg × Byte)) : State := l.foldl (fun s r => s.setReg r.1 r.2) State.reset

/-- One step with the word `w` placed at `pc`. -/
def stepAt (pc : Word) (w : Nat) (s : State) : Host.Outcome State Fault Refusal :=
  step (({ s with pc := pc } : State).withFetchWord 16 w)

/-- The state a faulting instruction placed at `pc` leaves (60_exceptions.md R252). -/
def halted (pc : Word) (w : Nat) (s : State) (code : BitVec 3) (t : State) : Bool :=
  t == { (({ s with pc := pc } : State).withFetchWord 16 w) with
    fault := true, fcause := code, fpc := pc, opc := BitVec.ofNat 16 w }

/-- The state with P_OPERAND_ORDER = `latched`. -/
def latched (s : State) : State := { s with params := { s.params with operandOrder := .latched } }

/-- The state with P_ADDR_POLICY = `fault`. -/
def addrFault (s : State) : State := { s with params := { s.params with addrPolicy := .fault } }

/-- The state with the given P_RESERVED_WRITE. -/
def reserved (r : ReservedWrite) (s : State) : State := { s with params := { s.params with reservedWrite := r } }

/-- The state with P_KEY_INDEX = `fault`. -/
def keyFault (s : State) : State := { s with params := { s.params with keyIndex := .fault } }

/-- A check that passes is a next state that meets it. -/
theorem next_of_passes {o : Host.Outcome State Fault Refusal} {check : State → Bool} (h : passes o check = true) :
    ∃ t, o = .next t ∧ check t = true := by
  cases o with
  | next t => exact ⟨t, rfl, h⟩
  | fault c => cases h
  | refused e => cases h

/-! ### WellFormed: each check refuses a line that breaks it (30_encoding.md R105) -/

theorem test_wf_register_out_of_range : SourceLine.wellFormed ⟨.skp, [.v 16]⟩ = false := by decide
theorem test_wf_byte_out_of_range : SourceLine.wellFormed ⟨.ld, [.v 0, .num 256]⟩ = false := by decide
theorem test_wf_addr_out_of_range : SourceLine.wellFormed ⟨.call, [.num 4096]⟩ = false := by decide
theorem test_wf_nibble_out_of_range : SourceLine.wellFormed ⟨.drw, [.v 0, .v 1, .num 16]⟩ = false := by decide
theorem test_wf_word_out_of_range : SourceLine.wellFormed ⟨.word, [.num 65536]⟩ = false := by decide
theorem test_wf_operand_shape : SourceLine.wellFormed ⟨.or, [.v 0, .num 1]⟩ = false := by decide
theorem test_wf_operand_count : SourceLine.wellFormed ⟨.cls, [.v 0]⟩ = false := by decide
theorem test_wf_jump_base_is_v0 : SourceLine.wellFormed ⟨.jp, [.v 1, .num 2]⟩ = false := by decide
theorem test_wf_rnd_needs_byte : SourceLine.wellFormed ⟨.rnd, [.v 1, .v 2]⟩ = false := by decide
theorem test_wf_fixed_operand : SourceLine.wellFormed ⟨.ld, [.memI, .dt]⟩ = false := by decide
theorem test_wf_add_to_index_needs_register : SourceLine.wellFormed ⟨.add, [.i, .num 1]⟩ = false := by decide
theorem test_wf_bounds_accepted :
    SourceLine.wellFormed ⟨.drw, [.v 15, .v 15, .num 15]⟩ = true ∧
    SourceLine.wellFormed ⟨.ld, [.v 15, .num 255]⟩ = true ∧
    SourceLine.wellFormed ⟨.jp, [.num 4095]⟩ = true ∧
    SourceLine.wellFormed ⟨.word, [.num 65535]⟩ = true := by decide

/-! ### Decode: every constructor's word, written out from R101 -/

theorem test_decode_families_0_to_2 :
    decode Params.default 0x00E0 = .instr .cls ∧ decode Params.default 0x00EE = .instr .ret ∧
    decode Params.default 0x1ABC = .instr (.jpAddr 0xABC) ∧
    decode Params.default 0x2DEF = .instr (.callAddr 0xDEF) := by decide

theorem test_decode_families_3_to_7 :
    decode Params.default 0x3A42 = .instr (.seVxByte 10 0x42) ∧
    decode Params.default 0x4B24 = .instr (.sneVxByte 11 0x24) ∧
    decode Params.default 0x51C0 = .instr (.seVxVy 1 12) ∧
    decode Params.default 0x6EFF = .instr (.ldVxByte 14 0xFF) ∧
    decode Params.default 0x7A02 = .instr (.addVxByte 10 0x02) := by decide

theorem test_decode_family_8 :
    decode Params.default 0x8120 = .instr (.ldVxVy 1 2) ∧ decode Params.default 0x8341 = .instr (.orVxVy 3 4) ∧
    decode Params.default 0x8562 = .instr (.andVxVy 5 6) ∧ decode Params.default 0x8783 = .instr (.xorVxVy 7 8) ∧
    decode Params.default 0x89A4 = .instr (.addVxVy 9 10) ∧ decode Params.default 0x8BC5 = .instr (.subVxVy 11 12) ∧
    decode Params.default 0x8DE6 = .instr (.shrVxVy 13 14) ∧ decode Params.default 0x8F07 = .instr (.subnVxVy 15 0) ∧
    decode Params.default 0x812E = .instr (.shlVxVy 1 2) := by decide

theorem test_decode_families_9_to_E :
    decode Params.default 0x9340 = .instr (.sneVxVy 3 4) ∧ decode Params.default 0xA123 = .instr (.ldIAddr 0x123) ∧
    decode Params.default 0xBFED = .instr (.jpV0Addr 0xFED) ∧
    decode Params.default 0xC10F = .instr (.rndVxByte 1 0x0F) ∧
    decode Params.default 0xD127 = .instr (.drwVxVyNibble 1 2 7) ∧
    decode Params.default 0xE59E = .instr (.skpVx 5) ∧ decode Params.default 0xE6A1 = .instr (.sknpVx 6) := by decide

theorem test_decode_family_F :
    decode Params.default 0xF107 = .instr (.ldVxDT 1) ∧ decode Params.default 0xF20A = .instr (.ldVxK 2) ∧
    decode Params.default 0xF315 = .instr (.ldDTVx 3) ∧ decode Params.default 0xF418 = .instr (.ldSTVx 4) ∧
    decode Params.default 0xF51E = .instr (.addIVx 5) ∧ decode Params.default 0xF629 = .instr (.ldFVx 6) ∧
    decode Params.default 0xF733 = .instr (.ldBVx 7) ∧ decode Params.default 0xF855 = .instr (.ldMemVx 8) ∧
    decode Params.default 0xF965 = .instr (.ldVxMem 9) := by decide

/-- TD5 and the edges of 30_encoding.md R102. -/
theorem test_decode_no_op :
    decode Params.default 0x8008 = .noOp ∧ decode Params.default 0x800F = .noOp ∧
    decode Params.default 0xE0FF = .noOp ∧ decode Params.default 0xF0FF = .noOp ∧
    decode Params.default 0xF001 = .noOp ∧ decode Params.default 0x0123 = .noOp ∧
    decode Params.default 0x0000 = .noOp := by decide

/-- TD3, TD4 and TD6 as decodings: each of the decode parameters at each of its values (R95, R97, R99). -/
theorem test_decode_parameters :
    decode Params.default 0x01E0 = .instr .cls ∧
    decode { Params.default with decode0 := .fullWord } 0x01E0 = .noOp ∧
    decode { Params.default with decode0 := .lowNibble } 0x0120 = .instr .cls ∧
    decode { Params.default with decodeE := .lowNibble } 0xE32E = .instr (.skpVx 3) ∧
    decode { Params.default with decodeE := .lowNibble } 0xE321 = .instr (.sknpVx 3) ∧
    decode Params.default 0x5121 = .instr (.seVxVy 1 2) ∧
    decode { Params.default with decode59 := .requireZero } 0x5121 = .noOp ∧
    decode { Params.default with decode59 := .requireZero } 0x9120 = .instr (.sneVxVy 1 2) := by decide

/-- Words of R101, written by the encoder. -/
theorem test_encode :
    encode (.drwVxVyNibble 1 2 7) = 0xD127 ∧ encode (.ldVxMem 9) = 0xF965 ∧ encode (.jpV0Addr 0xFED) = 0xBFED ∧
    encode (.subnVxVy 15 0) = 0x8F07 ∧ encode .cls = 0x00E0 := by decide

/-- The table's numbering is the word's (opcode_table.json). -/
theorem test_decode_table_word :
    decodeTableWord 16 0xD127 = some (.drwVxVyNibble 1 2 7) ∧ decodeTableWord 16 0x8008 = none := by decide

/-! ### The assembler's text (R105) -/

theorem test_asm_lines :
    assembleText "DRW V1, V2, 7".toList = some 0xD127 ∧ assembleText "LD [I], V8".toList = some 0xF855 ∧
    assembleText "JP V0, 0xFED".toList = some 0xBFED ∧ assembleText ".word 0x8008".toList = some 0x8008 ∧
    assembleText "SE VA, 66".toList = some 0x3A42 ∧ assembleText "LD F, V6".toList = some 0xF629 ∧
    assembleText "rnd vC, 0xfE".toList = some 0xCCFE := by decide

theorem test_asm_refuses :
    assembleText "LD V1, 256".toList = none ∧ assembleText "LD VG, 1".toList = none ∧
    assembleText "JP 0x1000".toList = none ∧ assembleText "JP 0x".toList = none ∧ assembleText "JP 1A".toList = none ∧ assembleText "NOP".toList = none := by decide

/-! ### The step -/

/-- TD1: the byte at the lower address is bits 15 to 8. -/
theorem test_step_fetch_order :
    passes (step (State.reset.setBytes 0x200 [0x12, 0x34])) (fun t => t.opc == 0x1234 && t.pc == 0x234) = true := by
  decide

/-- TD2: the no-op. -/
theorem test_step_no_op :
    passes (stepAt 0x200 0x0123 State.reset) (fun t => t.pc == 0x202 && t.opc == 0x0123 && !t.fault) = true := by decide

/-- TD8: the second fetch address wraps to 0x000, the font. -/
theorem test_step_fetch_wraps :
    passes (step { State.reset with pc := 0xFFF }) (fun t => t.opc == 0x00F0 && t.pc == 0x1001) = true := by decide

/-- TD9: the fetch faults, and OPC is as it was. -/
theorem test_step_fetch_faults :
    passes (step (addrFault { State.reset with pc := 0xFFF, opc := 0x1234 }))
      (fun t => t == { addrFault { State.reset with pc := 0xFFF, opc := 0x1234 } with
        fault := true, fcause := 4, fpc := 0xFFF }) = true := by decide

/-! ### Control transfer: TC1 to TC15 -/

theorem test_jp_addr : passes (stepAt 0x200 0x1ABC State.reset) (fun t => t.pc == 0xABC) = true := by decide

theorem test_call_last_entry :
    passes (stepAt 0x300 0x2400 { State.reset with sp := 15 })
      (fun t => t.stack[15] == 0x302 && t.sp == 16 && t.pc == 0x400) = true := by decide

theorem test_call_overflow :
    passes (stepAt 0x300 0x2400 { State.reset with sp := 16 })
      (halted 0x300 0x2400 { State.reset with sp := 16 } 1) = true := by decide

theorem test_ret :
    passes (stepAt 0x204 0x00EE { State.reset with sp := 1, stack := State.reset.stack.set 0 0x202 })
      (fun t => t.sp == 0 && t.pc == 0x202 && t.stack[0] == 0x202) = true := by decide

theorem test_ret_underflow :
    passes (stepAt 0x300 0x00EE State.reset) (halted 0x300 0x00EE State.reset 2) = true := by decide

theorem test_jp_v0 :
    passes (stepAt 0x200 0xBFFF (withRegs [(0, 0xFF)])) (fun t => t.pc == 0x10FE) = true := by decide

theorem test_se_byte :
    passes (stepAt 0x200 0x3142 (withRegs [(1, 0x42)])) (fun t => t.pc == 0x204) = true ∧
    passes (stepAt 0x200 0x3143 (withRegs [(1, 0x42)])) (fun t => t.pc == 0x202) = true := by decide

theorem test_sne_byte :
    passes (stepAt 0x200 0x4142 (withRegs [(1, 0x42)])) (fun t => t.pc == 0x202) = true ∧
    passes (stepAt 0x200 0x4143 (withRegs [(1, 0x42)])) (fun t => t.pc == 0x204) = true := by decide

theorem test_se_reg :
    passes (stepAt 0x200 0x5120 (withRegs [(1, 7), (2, 7)])) (fun t => t.pc == 0x204) = true := by decide

theorem test_sne_reg_same : passes (stepAt 0x200 0x9330 State.reset) (fun t => t.pc == 0x202) = true := by decide

/-! ### Registers and ALU: the TA vectors -/

theorem test_ld_byte : passes (stepAt 0x200 0x6AFF State.reset) (fun t => t.reg 10 == 0xFF) = true := by decide

theorem test_add_byte_no_flag :
    passes (stepAt 0x200 0x7A02 (withRegs [(10, 0xFF), (15, 0x55)])) (fun t => t.reg 10 == 1 && t.reg 15 == 0x55) = true := by
  decide

theorem test_ld_reg : passes (stepAt 0x200 0x8120 (withRegs [(2, 0x33)])) (fun t => t.reg 1 == 0x33) = true := by decide

theorem test_or_keeps_flag :
    passes (stepAt 0x200 0x8121 (withRegs [(1, 0xF0), (2, 0x3C), (15, 0x55)]))
      (fun t => t.reg 1 == 0xFC && t.reg 15 == 0x55) = true := by decide

theorem test_and : passes (stepAt 0x200 0x8122 (withRegs [(1, 0xF0), (2, 0x3C)])) (fun t => t.reg 1 == 0x30) = true := by
  decide

theorem test_xor : passes (stepAt 0x200 0x8123 (withRegs [(1, 0xF0), (2, 0x3C)])) (fun t => t.reg 1 == 0xCC) = true := by
  decide

theorem test_add_carry :
    passes (stepAt 0x200 0x8124 (withRegs [(1, 0xFF), (2, 1)])) (fun t => t.reg 1 == 0 && t.reg 15 == 1) = true := by decide

/-- The destination is VF: the result overwrites the flag, and the order decides what the sum reads. -/
theorem test_add_into_flag :
    passes (stepAt 0x200 0x8F24 (withRegs [(15, 0xFF), (2, 1)])) (fun t => t.reg 15 == 2) = true ∧
    passes (stepAt 0x200 0x8F24 (latched (withRegs [(15, 0xFF), (2, 1)]))) (fun t => t.reg 15 == 0) = true := by decide

theorem test_sub_borrow :
    passes (stepAt 0x200 0x8125 (withRegs [(1, 3), (2, 5)])) (fun t => t.reg 1 == 0xFE && t.reg 15 == 0) = true := by decide

theorem test_sub_equal :
    passes (stepAt 0x200 0x8125 (withRegs [(1, 7), (2, 7)])) (fun t => t.reg 1 == 0 && t.reg 15 == 1) = true := by decide

theorem test_shr_source_is_y :
    passes (stepAt 0x200 0x8126 (withRegs [(2, 5), (1, 0x77)]))
      (fun t => t.reg 1 == 2 && t.reg 15 == 1 && t.reg 2 == 5) = true := by decide

theorem test_shr_from_flag :
    passes (stepAt 0x200 0x81F6 (withRegs [(15, 3)])) (fun t => t.reg 1 == 0 && t.reg 15 == 1) = true ∧
    passes (stepAt 0x200 0x81F6 (latched (withRegs [(15, 3)]))) (fun t => t.reg 1 == 1 && t.reg 15 == 1) = true := by decide

theorem test_subn :
    passes (stepAt 0x200 0x8127 (withRegs [(1, 3), (2, 5)])) (fun t => t.reg 1 == 2 && t.reg 15 == 1) = true := by decide

theorem test_shl :
    passes (stepAt 0x200 0x812E (withRegs [(2, 0x81)])) (fun t => t.reg 1 == 2 && t.reg 15 == 1) = true := by decide

theorem test_rnd_mask :
    passes (stepAt 0x200 0xC10F { State.reset with randIn := some 0xAB }) (fun t => t.reg 1 == 0x0B) = true := by decide

/-- With no byte presented the draw is free, and a zero mask still gives 0. -/
theorem test_rnd_zero_mask : passes (stepAt 0x200 0xC100 State.reset) (fun t => t.draws == 1) = true := by decide

/-! ### Index, loads and stores: the TM vectors -/

theorem test_ld_i : passes (stepAt 0x200 0xA123 State.reset) (fun t => t.i == 0x123) = true := by decide

theorem test_add_i_overflow :
    passes (stepAt 0x200 0xF11E { withRegs [(1, 1)] with i := 0xFFF })
      (fun t => t.i == 0x1000 && t.reg 15 == 1) = true := by decide

theorem test_add_i_from_flag :
    passes (stepAt 0x200 0xFF1E { withRegs [(15, 0x10)] with i := 0xF00 })
      (fun t => t.i == 0xF00 && t.reg 15 == 0) = true ∧
    passes (stepAt 0x200 0xFF1E (latched { withRegs [(15, 0x10)] with i := 0xF00 }))
      (fun t => t.i == 0xF10 && t.reg 15 == 0) = true := by decide

theorem test_ld_f_unmasked :
    passes (stepAt 0x200 0xF129 (withRegs [(1, 0xFF)])) (fun t => t.i == 0x4FB) = true := by decide

theorem test_ld_b :
    passes (stepAt 0x200 0xF133 { withRegs [(1, 0xFE)] with i := 0x300 })
      (fun t => t.byteAt 0x300 == 2 && t.byteAt 0x301 == 5 && t.byteAt 0x302 == 4 && t.i == 0x300) = true := by decide

theorem test_ld_b_reserved :
    passes (stepAt 0x300 0xF133 { withRegs [(1, 0x7B)] with i := 0x1FF })
      (halted 0x300 0xF133 { withRegs [(1, 0x7B)] with i := 0x1FF } 3) = true := by decide

theorem test_store_registers :
    passes (stepAt 0x200 0xF155 { withRegs [(0, 0xAA), (1, 0xBB), (2, 0xCC)] with i := 0x400 })
      (fun t => t.byteAt 0x400 == 0xAA && t.byteAt 0x401 == 0xBB && t.byteAt 0x402 == 0 && t.i == 0x402) = true := by decide

/-- The first byte is written and the second wraps to 0x000, where the write is dropped (R68 `ignore`). -/
theorem test_store_ignored :
    passes (stepAt 0x200 0xF155 (reserved .ignore { withRegs [(0, 0xAA), (1, 0xBB)] with i := 0xFFF }))
      (fun t => t.byteAt 0xFFF == 0xAA && t.byteAt 0 == 0xF0 && t.i == 0x1001) = true := by decide

theorem test_load_wraps :
    passes (stepAt 0x200 0xF165 (({ State.reset with i := 0xFFF } : State).setByte 0xFFF 0x12))
      (fun t => t.reg 0 == 0x12 && t.reg 1 == 0xF0 && t.i == 0x1001) = true := by decide

theorem test_load_faults :
    passes (stepAt 0x200 0xF165 (addrFault { State.reset with i := 0xFFF }))
      (halted 0x200 0xF165 (addrFault { State.reset with i := 0xFFF }) 4) = true := by decide

/-! ### Framebuffer: the TF vectors -/

theorem test_cls :
    passes (stepAt 0x200 0x00E0 { State.reset with fb := Frame.flip Frame.blank 63 31 })
      (fun t => t.fb == Frame.blank && t.dirty) = true := by decide

/-- The glyph 0 at (62, 30) wraps at both edges, or is clipped there. -/
theorem test_drw_edges :
    passes (stepAt 0x200 0xD015 (withRegs [(0, 0x3E), (1, 0x1E)]))
      (fun t => t.pixel 62 30 && t.pixel 1 30 && t.pixel 62 0 && t.pixel 0 2 && !t.pixel 63 31 && t.reg 15 == 0) = true ∧
    passes (stepAt 0x200 0xD015
        { withRegs [(0, 0x3E), (1, 0x1E)] with params := { Params.default with drawEdge := .clip } })
      (fun t => t.pixel 62 30 && t.pixel 63 30 && t.pixel 62 31 && !t.pixel 1 30 && !t.pixel 62 0 && t.dirty) = true := by
  decide

/-- A set pixel under a set bit is a collision, and is cleared. -/
theorem test_drw_collision :
    passes (stepAt 0x200 0xD011 { withRegs [(2, 9)] with fb := Frame.flip Frame.blank 3 0 })
      (fun t => !t.pixel 3 0 && t.pixel 2 0 && t.reg 15 == 1) = true := by decide

/-! ### Keys and timers: the TK vectors -/

theorem test_skp_wraps :
    passes (stepAt 0x200 0xE19E { withRegs [(1, 0x15)] with key := State.reset.key.set 5 true })
      (fun t => t.pc == 0x204) = true := by decide

theorem test_skp_faults :
    passes (stepAt 0x200 0xE19E (keyFault (withRegs [(1, 0x10)])))
      (halted 0x200 0xE19E (keyFault (withRegs [(1, 0x10)])) 5) = true := by decide

theorem test_sknp : passes (stepAt 0x200 0xE1A1 (withRegs [(1, 5)])) (fun t => t.pc == 0x204) = true := by decide

theorem test_key_wait_repeats : passes (stepAt 0x200 0xF30A State.reset) (fun t => t.pc == 0x200) = true := by decide

theorem test_key_wait_lowest :
    passes (stepAt 0x200 0xF40A (State.reset.writeKeys 0x0208)) (fun t => t.reg 4 == 3 && t.pc == 0x202) = true := by decide

theorem test_ld_dt : passes (stepAt 0x200 0xF207 { State.reset with dt := 0x3B }) (fun t => t.reg 2 == 0x3B) = true := by
  decide

theorem test_set_dt : passes (stepAt 0x200 0xF215 (withRegs [(2, 9)])) (fun t => t.dt == 9 && t.st == 0) = true := by decide

theorem test_set_st : passes (stepAt 0x200 0xF218 (withRegs [(2, 9)])) (fun t => t.st == 9 && t.dt == 0) = true := by decide

/-! ### Host operations and ports -/

/-- S1: Load then Step. -/
theorem test_load_and_step :
    passes (performAll [.load [0x60, 0x05] true, .step 0] State.reset) (fun t => t.reg 0 == 5 && t.pc == 0x202) = true := by
  decide

/-- TD11: Tick, WriteKeys and ClearDirty while halted. -/
theorem test_host_operations_while_halted :
    passes (performAll [.tick, .writeKeys 1, .clearDirty] { State.reset with fault := true, dt := 5, dirty := true })
      (fun t => t.dt == 4 && t.key[0] && !t.dirty && t.fault) = true := by decide

/-- The framebuffer read address is 64·y + x (60_exceptions.md R275). -/
theorem test_frame_port :
    ({ State.reset with fb := Frame.flip Frame.blank 3 2 } : State).framePort 131 = true ∧
    ({ State.reset with fb := Frame.flip Frame.blank 3 2 } : State).framePort 195 = false := by decide

/-- A request while an operation is in progress is refused by name (60_exceptions.md R275; 93 U23). -/
theorem test_port_busy :
    (match cycle { PortsIn.quiet 0 with tickReq := true } ⟨State.reset, .decode⟩ with
      | .refused .portBusy => true
      | _ => false) = true := by decide

/-- While an operation is in progress, and before the first Reset or Load, the output ports answer nothing
(70_reset_and_hazards.md R308; 92 D19; log entry 21). -/
theorem test_ports_refused :
    ((PortState.mk State.reset .decode).outputs matches .refused .portBusy) = true ∧
    ((PortState.mk { State.reset with started := false } .idle).readPixel 0 matches .refused .beforeFirstReset) = true := by
  decide

/-- The observation port under a P_OBS_MAP of four wires: PC is 0x200, byte 0 of the font is 0xF0 and DIRTY is 0 after
Reset (R290; 20_memory.md R64). -/
theorem test_observation_port :
    (match (PortState.rest { State.reset with
        params := { Params.default with obsMap := .wires [.pc 9, .pc 0, .mem 0 7, .dirty] } }).outputs with
      | .next o => o.obs == [true, false, true, false]
      | .fault _ => false
      | .refused _ => false) = true := by decide

/-- Glyph F of the standard font, the last of its bytes (20_memory.md R64). -/
theorem test_font : (State.reset.byteAt 75, State.reset.byteAt 78, State.reset.byteAt 79, State.reset.byteAt 80)
    = (0xF0, 0x80, 0x80, 0x00) := by decide

/-! ### Witnesses: every hypothesis of a statement is met by some state and operands

Each theorem is named after its statement. A clause that applies over a range is met at both sides of its bounds. -/

theorem witness_DecodeIsTheOpcodeMap :
    opcodeTable.length = 34 ∧ (∃ r ∈ opcodeTable, (0xD127 : Word) &&& r.mask = r.value) ∧
    (0x8008 : Word) &&& 0xF00F ≠ 0x800E ∧ decode Params.default 0x8008 = .noOp := by decide

theorem witness_DecodeParametersSelect :
    (0x00E0 : Word).toNat / 4096 = 0x0 ∧ (0x0FFF : Word).toNat / 4096 = 0x0 ∧
    (0xE000 : Word).toNat / 4096 = 0xE ∧ (0xEFFF : Word).toNat / 4096 = 0xE ∧
    (0x5000 : Word).toNat / 4096 = 0x5 ∧ (0x5FFF : Word).toNat / 4096 = 0x5 ∧
    (0x9000 : Word).toNat / 4096 = 0x9 ∧ (0x9FFF : Word).toNat / 4096 = 0x9 := by decide

theorem witness_FamiliesDecodeByTheirFields :
    ∀ f ∈ [0x1, 0x2, 0x3, 0x4, 0x6, 0x7, 0x8, 0xA, 0xB, 0xC, 0xD, 0xF],
      (BitVec.ofNat 16 (f * 4096)).toNat / 4096 = f ∧ (BitVec.ofNat 16 (f * 4096 + 4095)).toNat / 4096 = f := by decide

theorem witness_SourceLineNamesItsInstruction :
    SourceLine.instr? ⟨.ld, [.v 15, .num 255]⟩ = some (.ldVxByte 15 255) ∧
    SourceLine.instr? ⟨.ld, [.v 15, .num 256]⟩ = none := by decide

theorem witness_StepRunsDecodedInstruction :
    State.reset.started = true ∧ State.reset.fault = false ∧
    (match (State.reset.withFetchWord 16 0x6AFF).fetch with
      | .ok w => decode Params.default w == .instr (.ldVxByte 10 0xFF)
      | .error _ => false) = true := by decide

theorem witness_StepOfNoOpOnlyAdvances :
    State.reset.started = true ∧ State.reset.fault = false ∧
    (match State.reset.fetch with
      | .ok w => decode State.reset.params w == .noOp
      | .error _ => false) = true := by decide

theorem witness_FetchIsBigEndianUnderPolicy :
    State.reset.params.addrPolicy = .wrap ∧
    (addrFault State.reset).params.addrPolicy = .fault ∧
    (addrFault State.reset).started = true ∧ (addrFault State.reset).fault = false ∧
    (addrFault { State.reset with pc := 0xFFE }).pc.toNat ≤ 0xFFE ∧
    (addrFault { State.reset with pc := 0xFFF }).pc.toNat > 0xFFE ∧
    passes (step { State.reset with pc := 0xFFF }) (fun t => t.opc == 0x00F0) = true ∧
    passes (step (addrFault { State.reset with pc := 0xFFE })) (fun t => !t.fault) = true := by decide

theorem witness_StartedStepAnswersNext : State.reset.started = true ∧ (addrFault State.reset).started = true := by decide

theorem witness_RefusedBeforeFirstReset :
    ({ State.reset with started := false } : State).started = false ∧
    (HostOp.load [1] true ≠ .reset) ∧ (HostOp.observe ≠ .reset) ∧
    (∀ bytes ok, HostOp.observe ≠ .load bytes ok) := by
  refine ⟨rfl, by decide, by decide, fun _ _ h => by cases h⟩

theorem witness_CallPushesReturnAddress :
    ({ State.reset with sp := 15 } : State).sp.val < 16 ∧ State.reset.sp.val < 16 ∧
    ({ State.reset with sp := 16 } : State).sp.val = 16 := by decide

theorem witness_RetPopsReturnAddress :
    0 < ({ State.reset with sp := 1 } : State).sp.val ∧ 0 < ({ State.reset with sp := 16 } : State).sp.val ∧
    State.reset.sp.val = 0 := by decide

theorem witness_RetUndoesCall :
    ({ State.reset with sp := 15 } : State).sp.val < 16 ∧
    ∃ t, exec (.callAddr 0x300) { State.reset with sp := 15 } = .next t := ⟨by decide, _, rfl⟩

theorem witness_KeySkips :
    (withRegs [(1, 0xFF)]).params.keyIndex = .wrap ∧
    ((keyFault (withRegs [(1, 15)])).reg 1).toNat ≤ 15 ∧
    ((keyFault (withRegs [(1, 16)])).params.keyIndex = .fault ∧ ((keyFault (withRegs [(1, 16)])).reg 1).toNat > 15) := by
  decide

theorem witness_AddWithCarryResult : (0 : Reg) ≠ regVF ∧ (14 : Reg) ≠ regVF := by decide

theorem witness_SubtractResults : (0 : Reg) ≠ regVF ∧ (14 : Reg) ≠ regVF := by decide

theorem witness_ShiftResults : (0 : Reg) ≠ regVF ∧ (14 : Reg) ≠ regVF := by decide

theorem witness_OperandOrdersAgreeWithoutVF :
    (1 : Reg) ≠ regVF ∧ (14 : Reg) ≠ regVF ∧
    ∀ i ∈ [Instr.addVxVy 1 14, .subVxVy 1 14, .shrVxVy 1 14, .subnVxVy 1 14, .shlVxVy 1 14, .addIVx 1],
      i ∈ [Instr.addVxVy 1 14, .subVxVy 1 14, .shrVxVy 1 14, .subnVxVy 1 14, .shlVxVy 1 14, .addIVx 1] := by decide

theorem witness_RandomByteMasked :
    (0x0F : Byte).getLsbD 4 = false ∧ ({ State.reset with randIn := some 0xAB } : State).randIn = some 0xAB ∧
    State.reset.randIn = none := by decide

theorem addressesOk_of {s : State} {n : Nat} (h : s.i.toNat + n ≤ 0x1000) : AddressesOk s n := .inr (.inr h)

theorem not_addressesOk {s : State} {n : Nat} (hp : s.params.addrPolicy = .fault) (hn : n ≠ 0)
    (h : 0x1000 < s.i.toNat + n) : ¬ AddressesOk s n := by
  rintro (h' | h' | h')
  · rw [hp] at h'; cases h'
  · exact hn h'
  · omega

theorem reservedOk_of {s : State} {n : Nat} (hl : 0x200 ≤ s.i.toNat) (hh : s.i.toNat + n ≤ 0x1000) : ReservedOk s n := by
  refine .inr fun k hk => ?_
  unfold indexByte State.indexAddr
  omega

theorem not_reservedOk {s : State} {n : Nat} (hp : s.params.reservedWrite = .fault) {k : Nat} (hk : k < n)
    (h : (s.i.toNat + k) % 4096 < 0x200) : ¬ ReservedOk s n := by
  rintro (h' | h')
  · exact h' hp
  · have := h' k hk
    unfold indexByte State.indexAddr at this
    omega

/-- Both bounds of the normal case, an address out of range by one, and a reserved address by one; and the parameter values
that lift either bound. -/
theorem witness_BcdStored :
    MemoryOk State.reset ∧
    (AddressesOk (addrFault { State.reset with i := 0xFFD }) 3 ∧ ReservedOk (addrFault { State.reset with i := 0xFFD }) 3) ∧
    (AddressesOk { State.reset with i := 0x200 } 3 ∧ ReservedOk { State.reset with i := 0x200 } 3) ∧
    (AddressesOk (reserved .write State.reset) 3 ∧ ReservedOk (reserved .write State.reset) 3) ∧
    ¬ AddressesOk (addrFault { State.reset with i := 0xFFE }) 3 ∧
    (AddressesOk { State.reset with i := 0x1FF } 3 ∧ ¬ ReservedOk { State.reset with i := 0x1FF } 3) ∧
    (AddressesOk { State.reset with i := 0xFFE } 3 ∧ ¬ ReservedOk { State.reset with i := 0xFFE } 3) :=
  ⟨by decide, ⟨addressesOk_of (by decide), reservedOk_of (by decide) (by decide)⟩,
    ⟨addressesOk_of (by decide), reservedOk_of (by decide) (by decide)⟩,
    ⟨addressesOk_of (by decide), .inl (by decide)⟩,
    not_addressesOk (by decide) (by decide) (by decide),
    ⟨addressesOk_of (by decide), not_reservedOk (by decide) (k := 0) (by decide) (by decide)⟩,
    ⟨.inl rfl, not_reservedOk (by decide) (k := 2) (by decide) (by decide)⟩⟩

theorem witness_RegistersStored :
    MemoryOk State.reset ∧
    (AddressesOk (addrFault { State.reset with i := 0xFF0 }) ((15 : Reg).val + 1) ∧
      ReservedOk (addrFault { State.reset with i := 0xFF0 }) ((15 : Reg).val + 1)) ∧
    ¬ AddressesOk (addrFault { State.reset with i := 0xFF1 }) ((15 : Reg).val + 1) ∧
    ¬ AddressesOk (addrFault { State.reset with i := 0x1000 }) ((0 : Reg).val + 1) ∧
    (AddressesOk { State.reset with i := 0x1FF } ((0 : Reg).val + 1) ∧
      ¬ ReservedOk { State.reset with i := 0x1FF } ((0 : Reg).val + 1)) :=
  ⟨by decide, ⟨addressesOk_of (by decide), reservedOk_of (by decide) (by decide)⟩,
    not_addressesOk (by decide) (by decide) (by decide), not_addressesOk (by decide) (by decide) (by decide),
    ⟨addressesOk_of (by decide), not_reservedOk (by decide) (k := 0) (by decide) (by decide)⟩⟩

theorem witness_RegistersLoaded :
    AddressesOk (addrFault { State.reset with i := 0xFF0 }) ((15 : Reg).val + 1) ∧
    ¬ AddressesOk (addrFault { State.reset with i := 0xFF1 }) ((15 : Reg).val + 1) :=
  ⟨addressesOk_of (by decide), not_addressesOk (by decide) (by decide) (by decide)⟩

theorem witness_StoreThenLoadRestoresRegisters :
    MemoryOk State.reset ∧ AddressesOk { State.reset with i := 0x200 } ((15 : Reg).val + 1) ∧
    (∀ k, k ≤ (15 : Reg).val → 0x200 ≤ indexByte { State.reset with i := 0x200 } k) ∧
    ∃ t, exec (.ldMemVx 15) { State.reset with i := 0x200 } = .next t :=
  ⟨by decide, addressesOk_of (by decide), by decide, exec_next _ _⟩

/-- FX55 with X = F at both ends of program memory, FX33, a fetch inside the stored bytes, one that wraps, and one whose
bytes are not stored; a write that is dropped. -/
theorem witness_StoredWordIsFetched :
    MemoryOk State.reset ∧
    (AddressesOk (addrFault { State.reset with i := 0xFF0 }) (State.reset.v.toList.take ((15 : Reg).val + 1)).length ∧
      ReservedOk (addrFault { State.reset with i := 0xFF0 }) (State.reset.v.toList.take ((15 : Reg).val + 1)).length) ∧
    (AddressesOk { State.reset with i := 0x200 } (bcdDigits 0).length ∧
      ReservedOk { State.reset with i := 0x200 } (bcdDigits 0).length) ∧
    (∃ t, exec (.ldMemVx 15) (addrFault { State.reset with i := 0xFF0 }) = .next t) ∧
    (∃ t, exec (.ldBVx 1) { State.reset with i := 0x200 } = .next t) ∧
    (0xFFE : Word).toNat ≤ 0xFFE ∧
    (0x200 ≤ indexByte { State.reset with i := 0x200 } 0 ∧
      (0x200 : Word).toNat % 4096 = indexByte { State.reset with i := 0x200 } 0 ∧
      ((0x200 : Word).toNat + 1) % 4096 = indexByte { State.reset with i := 0x200 } 1) ∧
    (((0x0FFF : Word).toNat + 1) % 4096 = indexByte (reserved .write { State.reset with i := 0xFFF }) 1 ∧
      (reserved .write State.reset).params.reservedWrite = .write) ∧
    (∀ k, k < 3 → (0x203 : Word).toNat % 4096 = indexByte { State.reset with i := 0x200 } k →
      indexByte { State.reset with i := 0x200 } k < 0x200 ∧ State.reset.params.reservedWrite ≠ .write) ∧
    ((0x0FF : Word).toNat % 4096 = indexByte (reserved .ignore { State.reset with i := 0x0FF }) 0 ∧
      indexByte (reserved .ignore { State.reset with i := 0x0FF }) 0 < 0x200 ∧
      ReservedOk (reserved .ignore { State.reset with i := 0x0FF }) 1) :=
  ⟨by decide, ⟨addressesOk_of (by decide), reservedOk_of (by decide) (by decide)⟩,
    ⟨addressesOk_of (by decide), reservedOk_of (by decide) (by decide)⟩,
    exec_next _ _, exec_next _ _, by decide, by decide, by decide, by decide, by decide, by decide, .inl (by decide)⟩

theorem witness_OnlyStoresWriteMemory :
    MemoryOk { withRegs [(1, 0xFE)] with i := 0x300 } ∧
    passes (exec (.ldBVx 1) { withRegs [(1, 0xFE)] with i := 0x300 })
      (fun t => t.byteAt 0x302 != ({ withRegs [(1, 0xFE)] with i := 0x300 } : State).byteAt 0x302) = true := by decide

/-- A draw over a set pixel, a draw over none, rows that end at 0xFFF and rows past it, and a landing. -/
theorem witness_DrawFlipsCoveredPixels :
    AddressesOk (addrFault { State.reset with i := 0xFFB }) (5 : Nibble).toNat ∧
    ¬ AddressesOk (addrFault { State.reset with i := 0xFFC }) (5 : Nibble).toNat ∧
    (spriteCovers State.reset 0 1 1 3 0 ∧
      ({ State.reset with fb := Frame.flip Frame.blank 3 0 } : State).pixel 3 0 = true) ∧
    (∀ px py, spriteCovers State.reset 0 1 1 px py → State.reset.pixel px py = false) ∧
    (landing .clip 56 0 7 14 ≠ none ∧ landing .clip 57 0 7 14 = none ∧ landing .wrap 63 31 7 14 ≠ none) := by
  refine ⟨addressesOk_of (by decide), not_addressesOk (by decide) (by decide) (by decide), ⟨?_, by decide⟩, ?_, by decide⟩
  · exact ⟨0, by decide, 3, by decide, by decide, by exact ⟨by decide, by decide⟩⟩
  · exact fun px py _ => Frame.pixel_blank px py

theorem witness_DrawingTwiceRestores :
    (0 : Reg) ≠ regVF ∧ (1 : Reg) ≠ regVF ∧ AddressesOk State.reset (5 : Nibble).toNat ∧
    (∃ t, exec (.drwVxVyNibble 0 1 5) State.reset = .next t) ∧
    (spriteCovers State.reset 0 1 5 3 0 ∧ State.reset.pixel 3 0 = false) :=
  ⟨by decide, by decide, .inl rfl, exec_next _ _, ⟨0, by decide, 3, by decide, by decide, by exact ⟨by decide, by decide⟩⟩, by decide⟩

theorem witness_DirtySetOnlyByDisplay :
    State.reset.started = true ∧ State.reset.fault = false ∧ State.reset.dirty = false ∧
    passes (stepAt 0x200 0x00E0 State.reset) (fun t => t.dirty && !t.fault) = true ∧
    nextInstr (State.reset.withFetchWord 16 0x00E0) = some .cls ∧
    passes (stepAt 0x200 0x6000 { State.reset with dirty := true }) (fun t => t.dirty) = true := by decide

theorem witness_KeyWaitResult :
    (∀ k : Fin 16, State.reset.key[k] = false) ∧
    (∃ k : Fin 16, (State.reset.writeKeys 0x8000).key[k] = true) ∧
    State.reset.params.keySelect = .lowest := by decide

theorem witness_TimersAndStackWritersOnly :
    passes (stepAt 0x200 0xF115 (withRegs [(1, 9)])) (fun t => t.dt != 0) = true ∧
    passes (stepAt 0x200 0xF118 (withRegs [(1, 9)])) (fun t => t.st != 0) = true ∧
    passes (stepAt 0x200 0x2300 State.reset) (fun t => t.sp != 0 && t.stack != State.reset.stack) = true := by decide

theorem witness_SoundTimerIsNeverRead :
    passes (stepAt 0x200 0xF118 (withRegs [(1, 9)])) (fun t => t.st == 9) = true ∧
    passes (stepAt 0x200 0x6000 { State.reset with st := 7 }) (fun t => t.st == 7) = true := by decide

/-- A fault after the fetch, and a fault of the fetch. -/
theorem witness_FaultEntryIsPrecise :
    passes (stepAt 0x300 0x00EE State.reset) (fun t => t.fault) = true ∧
    (match (State.reset.withFetchWord 16 0x00EE).fetch with
      | .ok w => w == 0x00EE
      | .error _ => false) = true ∧
    passes (step (addrFault { State.reset with pc := 0xFFF })) (fun t => t.fault) = true ∧
    (match (addrFault { State.reset with pc := 0xFFF }).fetch with
      | .ok _ => false
      | .error _ => true) = true := by decide

theorem witness_FaultsAreKnownAtDecode :
    State.reset.fault = false ∧
    passes (exec (.ldBVx 1) { State.reset with i := 0x1FF }) (fun t => t.fault) = true ∧
    faultOf (.ldBVx 1) { State.reset with i := 0x1FF } = some .reservedWrite ∧
    passes (exec (.ldBVx 1) { State.reset with i := 0x200 }) (fun t => !t.fault) = true ∧
    ((State.reset.setByte 0x300 1).i = State.reset.i ∧ (State.reset.setByte 0x300 1).params = State.reset.params) := by decide

theorem witness_DefaultFaultCauses :
    State.reset.params.addrPolicy = .wrap ∧ State.reset.params.keyIndex = .wrap ∧
    passes (stepAt 0x200 0x2300 { State.reset with sp := 16 }) (fun t => t.fault && t.fcause == 1) = true ∧
    passes (stepAt 0x200 0x00EE State.reset) (fun t => t.fault && t.fcause == 2) = true ∧
    passes (stepAt 0x200 0xF055 State.reset) (fun t => t.fault && t.fcause == 3) = true := by decide

theorem witness_HaltEndsOnlyByResetOrLoad :
    ({ State.reset with fault := true } : State).started = true ∧ ({ State.reset with fault := true } : State).fault = true := by
  decide

theorem witness_StepKeepsInvariant :
    Inv State.reset ∧ passes (step State.reset) (fun _ => true) = true ∧
    Inv (State.reset.setBytes 0x200 [0x60, 0x05]) ∧
    Inv { State.reset with fault := true, fcause := 5, fpc := 0x300 } := by decide

theorem witness_HostOperationsKeepInvariant :
    Inv State.reset ∧ passes (perform (.load [0x60, 0x05] true) State.reset) (fun _ => true) = true ∧
    passes (perform .tick State.reset) (fun _ => true) = true := by decide

theorem witness_ReservedRegionKeepsFont :
    State.reset.params.reservedWrite ≠ .write ∧ (reserved .ignore State.reset).params.reservedWrite ≠ .write ∧
    MemoryOk State.reset ∧ ReservedIntact State.reset ∧ passes (step State.reset) (fun _ => true) = true :=
  ⟨by decide, by decide, by decide, fun _ _ => rfl, by decide⟩

theorem witness_StepKeepsHostState :
    passes (step State.reset) (fun t => t.fault == State.reset.fault) = true ∧
    passes (step { State.reset with fault := true }) (fun t => t.fault) = true := by decide

theorem witness_RegistersWrittenAsListed :
    passes (exec (.addVxVy 1 2) (withRegs [(1, 0xFF), (2, 1)])) (fun t => t.reg 15 != 0 && t.reg 1 != 0xFF) = true ∧
    passes (exec (.ldIAddr 0x123) State.reset) (fun t => t.i != State.reset.i) = true := by decide

theorem witness_TickAndHostWrites : State.reset.started = true := rfl

theorem witness_ResetGivesResetState :
    ({ PortsIn.quiet 0 with rstReq := true } : PortsIn).rstReq = true ∧
    ({ PortsIn.quiet 0 with rstReq := true, stepReq := true, loadStart := true } : PortsIn).rstReq = true := by decide

theorem witness_LoadPlacesImageOrFails :
    (List.replicate 3584 (1 : Byte)).length ≤ 3584 ∧ 3584 < (List.replicate 3585 (1 : Byte)).length := by
  rw [List.length_replicate, List.length_replicate]
  decide

theorem witness_IdleSelfJumpChangesOnlyOpc :
    (State.reset.withFetchWord 16 0x1200).started = true ∧ endedSuccessfully (State.reset.withFetchWord 16 0x1200) :=
  ⟨by decide, by decide, 0x200, by decide, by decide⟩

theorem witness_PortStepRefinesStep : State.reset.started = true ∧ State.reset.fault = false := by decide

theorem witness_PortLoadRefinesLoad :
    ([0x60, 0x05] : List Byte).length ≤ 3584 ∧ 3584 < (3585 : Word).toNat ∧
    ([0x60, 0x05] : List Byte).length < (3 : Word).toNat ∧ (3584 : Word).toNat ≤ 3584 := by decide

theorem witness_SameCycleRequestOrder :
    State.reset.started = true ∧ (PortsIn.quiet 0).loadByteValid = false ∧ (PortsIn.quiet 0).loadAbort = false ∧
    ({ PortsIn.quiet 0 with rstReq := true } : PortsIn).rstReq = true ∧
    ((PortsIn.quiet 0).rstReq = false ∧ ({ PortsIn.quiet 0 with loadStart := true } : PortsIn).loadStart = true) ∧
    ((PortsIn.quiet 0).rstReq = false ∧ (PortsIn.quiet 0).loadStart = false) := by decide

theorem witness_OutputPortsReadBetweenOperations :
    (PortState.mk State.reset .decode).busy = true ∧
    ((PortState.mk { State.reset with started := false } .idle).busy = false ∧
      ({ State.reset with started := false } : State).started = false) ∧
    ((PortState.rest State.reset).busy = false ∧ State.reset.started = true) ∧
    ({ Params.default with obsMap := .wires [.pc 9] } : Params).obsMap = .wires [.pc 9] ∧
    (0 : BitVec 11).toNat / 64 = 0 ∧ (2047 : BitVec 11).toNat / 64 = 31 := by decide

theorem witness_EveryElementIsObservable :
    MemoryOk State.reset ∧ MemoryOk { State.reset with draws := 1 } ∧
    ({ State.reset with draws := 1 } : State).params = State.reset.params ∧
    (∀ b : ObsBit, ({ State.reset with draws := 1 } : State).obsBit b = State.reset.obsBit b) :=
  ⟨by decide, by decide, rfl, fun b => by cases b <;> rfl⟩

end Sys2Proof.Tests
end

section
/-! PROOFS. The statements about the state elements of 10_state.md: the invariant, what a step keeps for the host, which
instructions write which elements, and that ST is never read. -/

namespace Sys2Proof

open Sys2Proof.Machine

/-! ### The invariant (10_state.md R39, 20_memory.md R60, 60_exceptions.md R251) -/

/-- Entering a fault records one of the five codes. -/
theorem faultStatusOk_enterFault (s : State) (c : Fault) (pc0 opc : Word) :
    FaultStatusOk (s.enterFault c pc0 opc) := c.code_range

/-- The halted state of an instruction's fault is the one `enterFault` builds, with one of the five codes. -/
theorem faultStatusOk_haltedWith (s : State) (c : Fault) : FaultStatusOk (haltedWith c.code s) :=
  faultStatusOk_enterFault s c (s.pc - 2) s.opc

/-- A state that keeps what instructions keep has the fault status of the state before. -/
theorem Machine.KeptByExec.faultStatusOk {s t : State} (k : KeptByExec s t) (hs : FaultStatusOk s) :
    FaultStatusOk t := by
  unfold FaultStatusOk
  rw [k.fault, k.fcause, k.fpc]
  exact hs

theorem exec_faultStatusOk {i : Instr} {s t : State} (hs : FaultStatusOk s) (h : exec i s = .next t) :
    FaultStatusOk t := by
  rcases exec_cases h with ⟨c, rfl⟩ | k
  · exact faultStatusOk_haltedWith s c
  · exact k.faultStatusOk hs

/-- Every instruction keeps the invariant. -/
theorem exec_inv {i : Instr} {s t : State} (hs : Inv s) (h : exec i s = .next t) : Inv t :=
  ⟨exec_memoryOk hs.1 h, exec_faultStatusOk hs.2 h⟩

/-- Settles O46: the invariant survives each of the four things a step can do. Fetch and advance write neither memory
nor the fault status, so the invariant of `s` is the one `s.advance w` starts from. -/
theorem stepKeepsInvariant : Obligations.StepKeepsInvariant := by
  unfold Obligations.StepKeepsInvariant
  intro s t hs h
  obtain ⟨-, ⟨-, rfl⟩ | ⟨-, c, -, rfl⟩ | ⟨-, w, -, -, rfl⟩ | ⟨-, w, i, -, -, hx⟩⟩ := step_cases h
  · exact hs
  · exact ⟨hs.1, faultStatusOk_enterFault s c s.pc s.opc⟩
  · exact hs
  · exact exec_inv (s := s.advance w) hs hx

/-! ### What a step keeps for the host (10_state.md R34, R39, R42, R45) -/

/-- What no step writes: the key latch, LOAD_ERR, the parameters and the started mark; and the fault status, unless the
step takes a fault. -/
structure HostStateKept (s t : State) : Prop where
  key : t.key = s.key
  loadErr : t.loadErr = s.loadErr
  params : t.params = s.params
  started : t.started = s.started
  faultStatus : (t.fault = true ∧ s.fault = false) ∨ (t.fault = s.fault ∧ t.fcause = s.fcause ∧ t.fpc = s.fpc)

theorem exec_hostStateKept {i : Instr} {s t : State} (hs : s.fault = false) (h : exec i s = .next t) :
    HostStateKept s t := by
  rcases exec_cases h with ⟨c, rfl⟩ | k
  · exact ⟨rfl, rfl, rfl, rfl, .inl ⟨rfl, hs⟩⟩
  · exact ⟨k.key, k.loadErr, k.params, k.started, .inr ⟨k.fault, k.fcause, k.fpc⟩⟩

theorem step_hostStateKept {s t : State} (h : step s = .next t) : HostStateKept s t := by
  obtain ⟨-, ⟨-, rfl⟩ | ⟨hf, c, -, rfl⟩ | ⟨-, w, -, -, rfl⟩ | ⟨hf, w, i, -, -, hx⟩⟩ := step_cases h
  · exact ⟨rfl, rfl, rfl, rfl, .inr ⟨rfl, rfl, rfl⟩⟩
  · exact ⟨rfl, rfl, rfl, rfl, .inl ⟨rfl, hf⟩⟩
  · exact ⟨rfl, rfl, rfl, rfl, .inr ⟨rfl, rfl, rfl⟩⟩
  · obtain ⟨hk, hl, hp, hs, hst⟩ := exec_hostStateKept (s := s.advance w) hf hx
    exact ⟨hk, hl, hp, hs, hst⟩

/-- Settles O50. A step that leaves FAULT as it was took no fault; one that changes it set it. -/
theorem stepKeepsHostState : Obligations.StepKeepsHostState := by
  unfold Obligations.StepKeepsHostState
  intro s t h
  obtain ⟨hk, hl, hp, hs, ⟨ht, hf⟩ | ⟨hf, hc, hpc⟩⟩ := step_hostStateKept h
  · exact ⟨hk, hl, hp, hs, fun e => absurd (ht.symm.trans (e.trans hf)) (by decide), fun _ => ht⟩
  · exact ⟨hk, hl, hp, hs, fun _ => ⟨hc, hpc⟩, fun e => hf.trans e⟩

/-! ### Before the first Reset or Load (10_state.md R44) -/

theorem step_refused {s : State} (h : s.started = false) : step s = .refused .beforeFirstReset := by
  simp [step, stepCore, h]

theorem stepWith_refused {s : State} (h : s.started = false) (r : Byte) :
    s.stepWith r = .refused .beforeFirstReset := by
  unfold State.stepWith
  rw [step_refused (s := s.presentRand r) h]

theorem whenStarted_refused {s : State} (h : s.started = false) (o : Host.Outcome State Fault Refusal) :
    s.whenStarted o = .refused .beforeFirstReset := by
  simp [State.whenStarted, h]

/-- A Load starts the CORE whether it succeeds or fails. -/
theorem doLoad_started (s : State) (bytes : List Byte) (ok : Bool) : (s.doLoad bytes ok).started = true := by
  unfold State.doLoad
  split
  · exact congrArg State.started (State.setBytes_keeps s.doReset Config.programBase bytes)
  · rfl

/-- Settles O12, by the cases of the operation. -/
theorem refusedBeforeFirstReset : Obligations.RefusedBeforeFirstReset := by
  unfold Obligations.RefusedBeforeFirstReset
  intro s op hs
  refine ⟨step_refused hs, ?_, fun hr hl => ?_⟩
  · rintro (rfl | ⟨bytes, ok, rfl⟩)
    · exact ⟨s.doReset, rfl, rfl⟩
    · exact ⟨s.doLoad bytes ok, rfl, doLoad_started s bytes ok⟩
  · cases op with
    | reset => exact absurd rfl hr
    | load bytes ok => exact absurd rfl (hl bytes ok)
    | step r => exact stepWith_refused hs r
    | tick | writeKeys m | clearDirty | observe => exact whenStarted_refused hs _

/-! ### The step from its parts -/

theorem step_of_halted {s : State} (hs : s.started = true) (hf : s.fault = true) : step s = .next s := by
  simp [step, stepCore, hs, hf]

theorem step_of_running {s : State} (hs : s.started = true) (hf : s.fault = false) : step s = runStep s := by
  simp [step, stepCore, hs, hf]

theorem runStep_of_fetch_error {s : State} {c : Fault} (hc : s.fetch = .error c) :
    runStep s = .next (s.enterFault c s.pc s.opc) := by
  unfold runStep
  rw [hc]

theorem runStep_of_fetch_ok {s : State} {w : Word} (hw : s.fetch = .ok w) :
    runStep s = execDecoded (decode s.params w) (s.advance w) := by
  unfold runStep
  rw [hw]

/-! ### The instructions that may fault: the operation that may, then what is done with its result -/

section
variable (s : State) (x y : Reg)

theorem exec_ret_eq : exec .ret s = s.orFault (s.pop.map fun p => p.2.setPc p.1) := by
  change execRet s = _
  unfold execRet
  cases s.pop <;> rfl

theorem exec_callAddr_eq (nnn : Addr) :
    exec (.callAddr nnn) s = s.orFault ((s.push s.pc).map fun u => u.setPc (zextAddr nnn)) := by
  change execCallAddr nnn s = _
  unfold execCallAddr
  cases s.push s.pc <;> rfl

theorem exec_skpVx_eq :
    exec (.skpVx x) s = s.orFault ((keyIndex s.params.keyIndex (s.reg x)).map fun k => s.skipIf (s.keyAt k)) := by
  change execSkpVx x s = _
  unfold execSkpVx
  cases keyIndex s.params.keyIndex (s.reg x) <;> rfl

theorem exec_sknpVx_eq :
    exec (.sknpVx x) s = s.orFault ((keyIndex s.params.keyIndex (s.reg x)).map fun k => s.skipIf (!s.keyAt k)) := by
  change execSknpVx x s = _
  unfold execSknpVx
  cases keyIndex s.params.keyIndex (s.reg x) <;> rfl

theorem exec_drwVxVyNibble_eq (n : Nibble) :
    exec (.drwVxVyNibble x y n) s = s.orFault ((s.readBytes (s.indexAddr 0) n.toNat).map (s.drawSprite x y)) := by
  change execDrwVxVyNibble x y n s = _
  unfold execDrwVxVyNibble
  cases s.readBytes (s.indexAddr 0) n.toNat <;> rfl

theorem exec_ldBVx_eq : exec (.ldBVx x) s = s.orFault (s.writeBytes (s.indexAddr 0) (bcdDigits (s.reg x))) := rfl

theorem exec_ldMemVx_eq :
    exec (.ldMemVx x) s = s.orFault ((s.writeBytes (s.indexAddr 0) (s.regsUpTo x)).map fun u => u.bumpI x) := by
  change execLdMemVx x s = _
  unfold execLdMemVx
  cases s.writeBytes (s.indexAddr 0) (s.regsUpTo x) <;> rfl

theorem exec_ldVxMem_eq :
    exec (.ldVxMem x) s =
      s.orFault ((s.readBytes (s.indexAddr 0) (x.val + 1)).map fun bs => (s.setRegs bs).bumpI x) := by
  change execLdVxMem x s = _
  unfold execLdVxMem
  cases s.readBytes (s.indexAddr 0) (x.val + 1) <;> rfl

end

theorem exec_ldVxK_none {s : State} (hk : s.keySelect = none) (x : Reg) :
    exec (.ldVxK x) s = .next (s.setPc (s.pc - 2)) := by
  change execLdVxK x s = _
  unfold execLdVxK
  rw [hk]

theorem exec_ldVxK_some {s : State} {k : Fin 16} (hk : s.keySelect = some k) (x : Reg) :
    exec (.ldVxK x) s = .next (s.afterKeySelect.setReg x (BitVec.ofNat 8 k.val)) := by
  change execLdVxK x s = _
  unfold execLdVxK
  rw [hk]

/-- An outcome of the shape "the operation `r`, then `f`" is the halt of the operation's fault, or `f` of its result. -/
theorem orFault_map_cases {α : Type} {s t : State} {o : Host.Outcome State Fault Refusal} {r : Except Fault α}
    {f : α → State} (ho : o = s.orFault (r.map f)) (h : o = .next t) :
    (∃ c : Fault, t = haltedWith c.code s) ∨ ∃ a, r = .ok a ∧ t = f a := by
  subst ho
  cases r with
  | ok a => cases h; exact .inr ⟨a, rfl, rfl⟩
  | error c => cases h; exact .inl ⟨c, rfl⟩

/-! ### Which instructions write which elements (10_state.md R22, R24, R28, R30, R32, R33) -/

/-- I is a destination (10_state.md R24). -/
def writesIndex (i : Instr) : Prop :=
  (∃ nnn, i = .ldIAddr nnn) ∨ ∃ x, i = .addIVx x ∨ i = .ldFVx x ∨ i = .ldMemVx x ∨ i = .ldVxMem x

/-- From `s` to `t` no general register, I, timer, SP or stack entry changes, but those the rules list for instruction
`i`. An instruction's meaning is a chain of state operations, so this is shown by one rule for each operation and
`trans`. -/
structure OnlyListed (i : Instr) (s t : State) : Prop where
  reg : ∀ r, ¬ writesReg i r → t.reg r = s.reg r
  index : ¬ writesIndex i → t.i = s.i
  dt : (∀ x, i ≠ .ldDTVx x) → t.dt = s.dt
  st : (∀ x, i ≠ .ldSTVx x) → t.st = s.st
  sp : i ≠ .ret → (∀ nnn, i ≠ .callAddr nnn) → t.sp = s.sp
  stack : (∀ nnn, i ≠ .callAddr nnn) → t.stack = s.stack

namespace OnlyListed

section
variable {i : Instr} {s t u : State}

theorem trans (a : OnlyListed i s u) (b : OnlyListed i u t) : OnlyListed i s t where
  reg r h := (b.reg r h).trans (a.reg r h)
  index h := (b.index h).trans (a.index h)
  dt h := (b.dt h).trans (a.dt h)
  st h := (b.st h).trans (a.st h)
  sp h h' := (b.sp h h').trans (a.sp h h')
  stack h := (b.stack h).trans (a.stack h)

/-- None of the elements changes. -/
theorem of_kept (hv : t.v = s.v) (hi : t.i = s.i) (hdt : t.dt = s.dt) (hst : t.st = s.st) (hsp : t.sp = s.sp)
    (hstack : t.stack = s.stack) : OnlyListed i s t where
  reg r _ := congrArg (fun v : Vector Byte 16 => v[r]) hv
  index _ := hi
  dt _ := hdt
  st _ := hst
  sp _ _ := hsp
  stack _ := hstack

theorem haltedWith (c : Fault) : OnlyListed i s (haltedWith c.code s) := of_kept rfl rfl rfl rfl rfl rfl

theorem setPc (a : Word) : OnlyListed i s (s.setPc a) := of_kept rfl rfl rfl rfl rfl rfl

theorem setFb (f : Frame) : OnlyListed i s (s.setFb f) := of_kept rfl rfl rfl rfl rfl rfl

theorem setDirty (d : Bool) : OnlyListed i s (s.setDirty d) := of_kept rfl rfl rfl rfl rfl rfl

theorem skipIf (c : Bool) : OnlyListed i s (s.skipIf c) := by
  cases c
  · exact of_kept rfl rfl rfl rfl rfl rfl
  · exact setPc _

theorem afterRand : OnlyListed i s s.afterRand := by
  unfold State.afterRand
  split <;> exact of_kept rfl rfl rfl rfl rfl rfl

theorem afterKeySelect : OnlyListed i s s.afterKeySelect := by
  unfold State.afterKeySelect
  split <;> exact of_kept rfl rfl rfl rfl rfl rfl

theorem writeBytes {a : Nat} {xs : List Byte} (h : s.writeBytes a xs = .ok t) : OnlyListed i s t := by
  rw [← State.writeBytes_keeps h]
  exact of_kept rfl rfl rfl rfl rfl rfl

theorem setReg {x : Reg} (b : Byte) (hx : writesReg i x) : OnlyListed i s (s.setReg x b) where
  reg r h := by
    have hne : r ≠ x := fun e => h (e ▸ hx)
    rw [State.reg_setReg, if_neg hne]
  index _ := rfl
  dt _ := rfl
  st _ := rfl
  sp _ _ := rfl
  stack _ := rfl

/-- The bytes of FX65 go to the registers below their number. -/
theorem setRegs {bs : List Byte} (h : ∀ r : Reg, r.val < bs.length → writesReg i r) :
    OnlyListed i s (s.setRegs bs) where
  reg r hr := by rw [State.reg_setRegs, List.getD_eq_default _ _ (Nat.le_of_not_lt fun hl => hr (h r hl))]
  index _ := s.setRegs_i bs
  dt _ := s.setRegs_dt bs
  st _ := s.setRegs_st bs
  sp _ _ := s.setRegs_sp bs
  stack _ := s.setRegs_stack bs

theorem setI (a : Word) (h : writesIndex i) : OnlyListed i s (s.setI a) where
  reg _ _ := rfl
  index h' := absurd h h'
  dt _ := rfl
  st _ := rfl
  sp _ _ := rfl
  stack _ := rfl

theorem setDt (x : Reg) (b : Byte) : OnlyListed (.ldDTVx x) s (s.setDt b) where
  reg _ _ := rfl
  index _ := rfl
  dt h := absurd rfl (h x)
  st _ := rfl
  sp _ _ := rfl
  stack _ := rfl

theorem setSt (x : Reg) (b : Byte) : OnlyListed (.ldSTVx x) s (s.setSt b) where
  reg _ _ := rfl
  index _ := rfl
  dt _ := rfl
  st h := absurd rfl (h x)
  sp _ _ := rfl
  stack _ := rfl

theorem push {a : Word} {nnn : Addr} (h : s.push a = .ok t) : OnlyListed (.callAddr nnn) s t := by
  unfold State.push at h
  split at h
  · cases h
    exact ⟨fun _ _ => rfl, fun _ => rfl, fun _ => rfl, fun _ => rfl, fun _ h => absurd rfl (h nnn),
      fun h => absurd rfl (h nnn)⟩
  · cases h

theorem pop {p : Word × State} (h : s.pop = .ok p) : OnlyListed .ret s p.2 := by
  unfold State.pop at h
  split at h
  · cases h
    exact ⟨fun _ _ => rfl, fun _ => rfl, fun _ => rfl, fun _ => rfl, fun h => absurd rfl h, fun _ => rfl⟩
  · cases h

theorem flagThenReg {x : Reg} (f : Bool) (r : State → Byte) (hx : writesReg i x) (hf : writesReg i regVF) :
    OnlyListed i s (s.flagThenReg f x r) := (setReg _ hf).trans (setReg _ hx)

theorem flagThenI (f : Bool) (r : State → Word) (hi : writesIndex i) (hf : writesReg i regVF) :
    OnlyListed i s (s.flagThenI f r) := (setReg _ hf).trans (setI _ hi)

theorem setCollision (hit : Bool) (hf : writesReg i regVF) : OnlyListed i s (s.setCollision hit) := by
  unfold State.setCollision
  split
  · exact setReg _ hf
  · exact of_kept rfl rfl rfl rfl rfl rfl

theorem drawSprite (x y : Reg) (rows : List Byte) (hf : writesReg i regVF) :
    OnlyListed i s (s.drawSprite x y rows) := ((setFb _).trans (setCollision _ hf)).trans (setDirty true)

/-- An instruction that may fault: its halt changes none of the elements, so only its normal result has to be shown. -/
theorem of_orFault {α : Type} {o : Host.Outcome State Fault Refusal} {r : Except Fault α} {f : α → State}
    (ho : o = s.orFault (r.map f)) (h : o = .next t) (hr : ∀ a, r = .ok a → OnlyListed i s (f a)) :
    OnlyListed i s t := by
  obtain ⟨c, rfl⟩ | ⟨a, ha, rfl⟩ := orFault_map_cases ho h
  · exact haltedWith c
  · exact hr a ha

end

end OnlyListed

/-- A run of `n` reads gives `n` bytes. -/
theorem readBytes_length {s : State} {a n : Nat} {bs : List Byte} (h : s.readBytes a n = .ok bs) : bs.length = n := by
  induction n generalizing a bs with
  | zero => cases h; rfl
  | succ n ih =>
    unfold State.readBytes at h
    split at h
    · cases h
    · split at h
      · cases h
      next bs' hbs => cases h; rw [List.length_cons, ih hbs]

/-- Every instruction changes only the registers, I, timers, SP and stack entries listed for it. -/
theorem exec_onlyListed {i : Instr} {s t : State} (h : exec i s = .next t) : OnlyListed i s t := by
  cases i with
  | cls => cases h; exact (OnlyListed.setFb _).trans (.setDirty true)
  | ret => exact .of_orFault (exec_ret_eq s) h fun p hp => (OnlyListed.pop hp).trans (.setPc _)
  | jpAddr nnn | jpV0Addr nnn => cases h; exact .setPc _
  | callAddr nnn =>
    exact .of_orFault (exec_callAddr_eq s nnn) h fun u hu => (OnlyListed.push hu).trans (.setPc _)
  | seVxByte x nn | sneVxByte x nn | seVxVy x y | sneVxVy x y => cases h; exact .skipIf _
  | skpVx x => exact .of_orFault (exec_skpVx_eq s x) h fun k _ => .skipIf _
  | sknpVx x => exact .of_orFault (exec_sknpVx_eq s x) h fun k _ => .skipIf _
  | ldVxByte x _ | addVxByte x _ | ldVxVy x _ | orVxVy x _ | andVxVy x _ | xorVxVy x _ | ldVxDT x =>
    cases h; exact .setReg _ rfl
  | addVxVy x y | subVxVy x y | shrVxVy x y | subnVxVy x y | shlVxVy x y =>
    cases h; exact .flagThenReg _ _ (.inl rfl) (.inr rfl)
  | rndVxByte x nn => cases h; exact OnlyListed.afterRand.trans (.setReg _ rfl)
  | drwVxVyNibble x y n =>
    exact .of_orFault (exec_drwVxVyNibble_eq s x y n) h fun rows _ => .drawSprite x y rows rfl
  | ldVxK x =>
    cases hk : s.keySelect with
    | none => rw [exec_ldVxK_none hk] at h; cases h; exact .setPc _
    | some k => rw [exec_ldVxK_some hk] at h; cases h; exact OnlyListed.afterKeySelect.trans (.setReg _ rfl)
  | ldDTVx x => cases h; exact .setDt x _
  | ldSTVx x => cases h; exact .setSt x _
  | ldIAddr nnn => cases h; exact .setI _ (.inl ⟨nnn, rfl⟩)
  | addIVx x => cases h; exact .flagThenI _ _ (.inr ⟨x, .inl rfl⟩) rfl
  | ldFVx x => cases h; exact .setI _ (.inr ⟨x, .inr (.inl rfl)⟩)
  | ldBVx x =>
    obtain hw | ⟨c, -, rfl⟩ := State.orFault_cases ((exec_ldBVx_eq s x).symm.trans h)
    · exact .writeBytes hw
    · exact .haltedWith c
  | ldMemVx x =>
    exact .of_orFault (exec_ldMemVx_eq s x) h fun u hu =>
      (OnlyListed.writeBytes hu).trans (.setI _ (.inr ⟨x, .inr (.inr (.inl rfl))⟩))
  | ldVxMem x =>
    refine .of_orFault (exec_ldVxMem_eq s x) h fun bs hbs => OnlyListed.trans (.setRegs fun r hr => ?_)
      (.setI _ (.inr ⟨x, .inr (.inr (.inr rfl))⟩))
    rw [readBytes_length hbs] at hr
    exact Nat.le_of_lt_succ hr

/-- Settles O51: what is not listed for the instruction is as it was. -/
theorem registersWrittenAsListed : Obligations.RegistersWrittenAsListed := by
  unfold Obligations.RegistersWrittenAsListed
  intro i s t h
  have only := exec_onlyListed h
  exact ⟨fun r hne => not_not.1 fun hr => hne (only.reg r hr), fun hne => not_not.1 fun hi => hne (only.index hi)⟩

theorem nextInstr_of_decode {s : State} {w : Word} {i : Instr} (hw : s.fetch = .ok w)
    (hd : decode s.params w = .instr i) : nextInstr s = some i := by
  simp [nextInstr, hw, hd]

/-- A step of a CORE that is not halted leaves the timers, SP and the stack alone, or runs the next instruction on the
state after fetch and advance. -/
theorem step_timersAndStack {s t : State} (hf : s.fault = false) (h : step s = .next t) :
    (t.dt = s.dt ∧ t.st = s.st ∧ t.sp = s.sp ∧ t.stack = s.stack) ∨
      ∃ w i, nextInstr s = some i ∧ exec i (s.advance w) = .next t := by
  obtain ⟨-, ⟨hh, -⟩ | ⟨-, c, -, rfl⟩ | ⟨-, w, -, -, rfl⟩ | ⟨-, w, i, hw, hd, hx⟩⟩ := step_cases h
  · rw [hf] at hh; cases hh
  · exact .inl ⟨rfl, rfl, rfl, rfl⟩
  · exact .inl ⟨rfl, rfl, rfl, rfl⟩
  · exact .inr ⟨w, i, nextInstr_of_decode hw hd, hx⟩

/-- Settles O40: what changed is listed for the instruction, and FX15 and FX18 write V[X]. -/
theorem timersAndStackWritersOnly : Obligations.TimersAndStackWritersOnly := by
  unfold Obligations.TimersAndStackWritersOnly
  intro s t _ hf h
  obtain ⟨hdt, hst, hsp, hstack⟩ | ⟨w, i, hi, hx⟩ := step_timersAndStack hf h
  · exact ⟨fun e => absurd hdt e, fun e => absurd hst e, fun e => absurd hsp e, fun e => absurd hstack e⟩
  have only := exec_onlyListed hx
  simp only [hi, Option.some.injEq]
  refine ⟨fun hne => ?_, fun hne => ?_, fun hne => ?_, fun hne => ?_⟩
  · obtain ⟨x, rfl⟩ : ∃ x, i = .ldDTVx x := by_contra fun hn => hne (only.dt fun x e => hn ⟨x, e⟩)
    cases hx
    exact ⟨x, rfl, rfl⟩
  · obtain ⟨x, rfl⟩ : ∃ x, i = .ldSTVx x := by_contra fun hn => hne (only.st fun x e => hn ⟨x, e⟩)
    cases hx
    exact ⟨x, rfl, rfl⟩
  · exact by_contra fun hn => hne (only.sp (fun e => hn (.inl e)) fun nnn e => hn (.inr ⟨nnn, e⟩))
  · exact by_contra fun hn => hne (only.stack fun nnn e => hn ⟨nnn, e⟩)

/-! ### No step reads ST (10_state.md R32) -/

section
variable (s : State) (b : Byte)

theorem memRead_setSt (a : Nat) : (s.setSt b).memRead a = s.memRead a := State.memRead_congr rfl rfl a

theorem readBytes_setSt (a n : Nat) : (s.setSt b).readBytes a n = s.readBytes a n := by
  induction n generalizing a with
  | zero => rfl
  | succ n ih => simp only [State.readBytes, memRead_setSt, ih]

theorem memWrite_setSt (a : Nat) (x : Byte) : (s.setSt b).memWrite a x = (s.memWrite a x).map (·.setSt b) := by
  unfold State.memWrite
  rw [State.setSt_params]
  cases ea s.params.addrPolicy a with
  | error c => rfl
  | ok e =>
    dsimp only
    split
    · rfl
    · split <;> rfl

theorem writeBytes_setSt (a : Nat) (xs : List Byte) :
    (s.setSt b).writeBytes a xs = (s.writeBytes a xs).map (·.setSt b) := by
  induction xs generalizing s a with
  | nil => rfl
  | cons x xs ih =>
    simp only [State.writeBytes, memWrite_setSt]
    cases s.memWrite a x with
    | error c => rfl
    | ok u => exact ih u (a + 1)

theorem push_setSt (a : Word) : (s.setSt b).push a = (s.push a).map (·.setSt b) := by
  by_cases h : s.sp.val < 16
  · rw [State.push_ok h, State.push_ok (s := s.setSt b) h]
    rfl
  · have hfull : s.sp.val = 16 := by omega
    rw [State.push_full hfull, State.push_full (s := s.setSt b) hfull]
    rfl

theorem pop_setSt : (s.setSt b).pop = s.pop.map fun p => (p.1, p.2.setSt b) := by
  by_cases h : 0 < s.sp.val
  · rw [State.pop_ok h, State.pop_ok (s := s.setSt b) h]
    rfl
  · have hempty : s.sp.val = 0 := by omega
    rw [State.pop_empty hempty, State.pop_empty (s := s.setSt b) hempty]
    rfl

theorem skipIf_setSt (c : Bool) : (s.setSt b).skipIf c = (s.skipIf c).setSt b := by cases c <;> rfl

theorem afterRand_setSt : (s.setSt b).afterRand = s.afterRand.setSt b := by
  unfold State.afterRand
  rw [State.setSt_randIn]
  split <;> rfl

theorem afterKeySelect_setSt : (s.setSt b).afterKeySelect = s.afterKeySelect.setSt b := by
  unfold State.afterKeySelect
  rw [State.setSt_params]
  split <;> rfl

theorem operandState_setSt (f : Bool) : (s.setSt b).operandState f = (s.operandState f).setSt b := by
  unfold State.operandState
  rw [State.setSt_params]
  split <;> rfl

/-- A flag-writing instruction whose result does not read ST. -/
theorem flagThenReg_setSt (f : Bool) (x : Reg) {r : State → Byte} (hr : ∀ u, r (u.setSt b) = r u) :
    (s.setSt b).flagThenReg f x r = (s.flagThenReg f x r).setSt b := by
  unfold State.flagThenReg
  rw [operandState_setSt, hr]
  rfl

theorem flagThenI_setSt (f : Bool) {r : State → Word} (hr : ∀ u, r (u.setSt b) = r u) :
    (s.setSt b).flagThenI f r = (s.flagThenI f r).setSt b := by
  unfold State.flagThenI
  rw [operandState_setSt, hr]
  rfl

theorem setCollision_setSt (hit : Bool) : (s.setSt b).setCollision hit = (s.setCollision hit).setSt b := by
  unfold State.setCollision
  rw [State.setSt_params]
  split <;> rfl

theorem drawSprite_setSt (x y : Reg) (rows : List Byte) :
    (s.setSt b).drawSprite x y rows = (s.drawSprite x y rows).setSt b :=
  congrArg (State.setDirty · true) (setCollision_setSt (s.setFb _) b _)

theorem fetch_setSt : (s.setSt b).fetch = s.fetch := by
  simp only [State.fetch, memRead_setSt, State.setSt_pc]

end

/-- A result that differs in ST alone gives an outcome that differs in ST alone: a halt keeps ST. -/
theorem orFault_setSt {s t : State} {b : Byte} {r r' : Except Fault State} (hr : r' = r.map (·.setSt b))
    (h : s.orFault r = .next t) : (s.setSt b).orFault r' = .next (t.setSt b) := by
  subst hr
  obtain rfl | ⟨c, rfl, rfl⟩ := State.orFault_cases h <;> rfl

theorem map_setSt {α : Type} {b : Byte} {f f' : α → State} (r : Except Fault α)
    (hf : ∀ a, f' a = (f a).setSt b) :
    r.map f' = (r.map f).map (·.setSt b) := by
  cases r with
  | ok a => exact congrArg Except.ok (hf a)
  | error c => rfl

/-- Every instruction but FX18 takes states that differ in ST alone to states that differ in ST alone. -/
theorem exec_setSt {i : Instr} {s t : State} (b : Byte) (hi : ∀ x, i ≠ .ldSTVx x) (h : exec i s = .next t) :
    exec i (s.setSt b) = .next (t.setSt b) := by
  cases i with
  | ldSTVx x => exact absurd rfl (hi x)
  | ret =>
    rw [exec_ret_eq] at h ⊢
    refine orFault_setSt ?_ h
    rw [pop_setSt]
    cases s.pop <;> rfl
  | callAddr nnn =>
    rw [exec_callAddr_eq] at h ⊢
    refine orFault_setSt ?_ h
    rw [State.setSt_pc, push_setSt]
    cases s.push s.pc <;> rfl
  | skpVx x =>
    rw [exec_skpVx_eq] at h ⊢
    exact orFault_setSt (map_setSt _ fun k => skipIf_setSt s b _) h
  | sknpVx x =>
    rw [exec_sknpVx_eq] at h ⊢
    exact orFault_setSt (map_setSt _ fun k => skipIf_setSt s b _) h
  | drwVxVyNibble x y n =>
    rw [exec_drwVxVyNibble_eq] at h ⊢
    refine orFault_setSt ?_ h
    rw [readBytes_setSt]
    exact map_setSt _ (drawSprite_setSt s b x y)
  | ldBVx x =>
    rw [exec_ldBVx_eq] at h ⊢
    exact orFault_setSt (writeBytes_setSt s b _ _) h
  | ldMemVx x =>
    rw [exec_ldMemVx_eq] at h ⊢
    refine orFault_setSt ?_ h
    rw [writeBytes_setSt]
    change ((s.writeBytes (s.indexAddr 0) (s.regsUpTo x)).map _).map _ = _
    cases s.writeBytes (s.indexAddr 0) (s.regsUpTo x) <;> rfl
  | ldVxMem x =>
    rw [exec_ldVxMem_eq] at h ⊢
    refine orFault_setSt ?_ h
    rw [readBytes_setSt]
    exact map_setSt _ fun bs => rfl
  | ldVxK x =>
    have hsel : (s.setSt b).keySelect = s.keySelect := rfl
    cases hk : s.keySelect with
    | none =>
      rw [exec_ldVxK_none hk] at h
      cases h
      exact exec_ldVxK_none (hsel.trans hk) x
    | some k =>
      rw [exec_ldVxK_some hk] at h
      cases h
      rw [exec_ldVxK_some (hsel.trans hk), afterKeySelect_setSt]
      rfl
  | rndVxByte x nn =>
    cases h
    exact congrArg (fun u : State => Host.Outcome.next (u.setReg x (s.randValue &&& nn))) (afterRand_setSt s b)
  | seVxByte x nn | sneVxByte x nn | seVxVy x y | sneVxVy x y =>
    cases h
    exact congrArg Host.Outcome.next (skipIf_setSt s b _)
  | addVxVy x y | subVxVy x y | shrVxVy x y | subnVxVy x y | shlVxVy x y =>
    cases h
    exact congrArg Host.Outcome.next (flagThenReg_setSt s b _ x fun _ => rfl)
  | addIVx x =>
    cases h
    exact congrArg Host.Outcome.next (flagThenI_setSt s b _ fun _ => rfl)
  | _ => cases h; rfl

/-- FX18 overwrites ST with a byte that does not depend on it. -/
theorem exec_ldSTVx_setSt (s : State) (b : Byte) (x : Reg) : exec (.ldSTVx x) (s.setSt b) = exec (.ldSTVx x) s := rfl

/-- Two runs of one instruction from states that differ in ST alone: ST is kept in both, or written alike in both. -/
theorem exec_setSt_cases {i : Instr} {s t : State} (b : Byte) (h : exec i s = .next t) :
    (exec i (s.setSt b) = .next (t.setSt b) ∧ t.st = s.st) ∨ exec i (s.setSt b) = .next t := by
  by_cases hi : ∀ x, i ≠ .ldSTVx x
  · exact .inl ⟨exec_setSt b hi h, (exec_onlyListed h).st hi⟩
  · push Not at hi
    obtain ⟨x, rfl⟩ := hi
    exact .inr ((exec_ldSTVx_setSt s b x).trans h)

/-- Two steps from states that differ in ST alone: ST is kept in both, or written alike in both. -/
theorem step_setSt_cases {s t : State} (b : Byte) (h : step s = .next t) :
    (step (s.setSt b) = .next (t.setSt b) ∧ t.st = s.st) ∨ step (s.setSt b) = .next t := by
  obtain ⟨hs, ⟨hf, rfl⟩ | ⟨hf, c, hc, rfl⟩ | ⟨hf, w, hw, hd, rfl⟩ | ⟨hf, w, i, hw, hd, hx⟩⟩ := step_cases h
  · exact .inl ⟨step_of_halted (s := t.setSt b) hs hf, rfl⟩
  · rw [step_of_running (s := s.setSt b) hs hf, runStep_of_fetch_error ((fetch_setSt s b).trans hc)]
    exact .inl ⟨rfl, rfl⟩
  · rw [step_of_running (s := s.setSt b) hs hf, runStep_of_fetch_ok ((fetch_setSt s b).trans hw),
      State.setSt_params, hd]
    exact .inl ⟨rfl, rfl⟩
  · rw [step_of_running (s := s.setSt b) hs hf, runStep_of_fetch_ok ((fetch_setSt s b).trans hw),
      State.setSt_params, hd]
    exact exec_setSt_cases (s := s.advance w) b hx

/-- Settles O41: the second run's state is the first's with the new ST, or the same one. -/
theorem soundTimerIsNeverRead : Obligations.SoundTimerIsNeverRead := by
  unfold Obligations.SoundTimerIsNeverRead
  intro s t b h
  obtain ⟨h', hst⟩ | h' := step_setSt_cases b h
  · exact ⟨t.setSt b, h', rfl, .inl ⟨hst, rfl⟩⟩
  · exact ⟨t, h', rfl, .inr rfl⟩

end Sys2Proof
end

section
/-! PROOFS. The statements about memory (20_memory.md): which instructions write it, what a fetch sees of a store, and that
the reserved region keeps its reset contents. -/

namespace Sys2Proof

open Sys2Proof.Machine

/-! ### Which bytes an instruction may change (20_memory.md R61, R68, R70) -/

/-- `a` is the address of one of the bytes that FX33 or FX55 stores (43_memory_index.md R193, R194). -/
def storesTo (i : Instr) (s : State) (a : Nat) : Prop :=
  ∃ x : Reg, (i = .ldBVx x ∧ ∃ k < 3, a = indexByte s k) ∨
    (i = .ldMemVx x ∧ ∃ k < x.val + 1, a = indexByte s k)

theorem length_regsUpTo (s : State) (x : Reg) : (s.regsUpTo x).length = x.val + 1 := by
  simp only [State.regsUpTo, List.length_take, Vector.length_toList]
  omega

/-- A byte an instruction changes is one it stores to, and lies outside the reserved region unless P_RESERVED_WRITE =
`write`. -/
theorem exec_changes {i : Instr} {s t : State} {a : Nat} (hm : MemoryOk s) (h : exec i s = .next t)
    (ha : t.byteAt a ≠ s.byteAt a) : storesTo i s a ∧ (0x200 ≤ a ∨ s.params.reservedWrite = .write) := by
  obtain e | ⟨x, u, rfl, hw, rfl⟩ | ⟨x, u, rfl, hw, rfl⟩ := exec_mem_cases h
  · exact absurd (State.byteAt_congr e (exec_params h) a) ha
  · obtain ⟨hk, hr⟩ := State.writeBytes_changes hm hw ha
    exact ⟨⟨x, .inl ⟨rfl, hk⟩⟩, hr⟩
  · obtain ⟨hk, hr⟩ := State.writeBytes_changes (t := u) hm hw ha
    rw [length_regsUpTo] at hk
    exact ⟨⟨x, .inr ⟨rfl, hk⟩⟩, hr⟩

/-- Settles O33: an address that reads differently is one the instruction stores to. -/
theorem onlyStoresWriteMemory : Obligations.OnlyStoresWriteMemory := by
  unfold Obligations.OnlyStoresWriteMemory
  exact fun i s t a hm h ha => (exec_changes hm h ha).1

/-! ### The reserved region (20_memory.md R65, R68) -/

/-- Unless P_RESERVED_WRITE = `write`, an instruction keeps every byte below 0x200. -/
theorem exec_keeps_reserved {i : Instr} {s t : State} (hr : s.params.reservedWrite ≠ .write) (hm : MemoryOk s)
    (h : exec i s = .next t) {a : Nat} (ha : a < 0x200) : t.byteAt a = s.byteAt a := by
  by_contra hne
  obtain ⟨-, hge | hw⟩ := exec_changes hm h hne
  · omega
  · exact hr hw

/-- Unless P_RESERVED_WRITE = `write`, a step keeps every byte below 0x200: only an executed instruction writes memory,
and fetch and advance do not change what it starts from. -/
theorem step_keeps_reserved {s t : State} (hr : s.params.reservedWrite ≠ .write) (hm : MemoryOk s)
    (h : step s = .next t) {a : Nat} (ha : a < 0x200) : t.byteAt a = s.byteAt a := by
  obtain ⟨-, ⟨-, rfl⟩ | ⟨-, c, -, rfl⟩ | ⟨-, w, -, -, rfl⟩ | ⟨-, w, i, -, -, hx⟩⟩ := step_cases h
  · rfl
  · rfl
  · rfl
  · exact exec_keeps_reserved (s := s.advance w) hr hm hx ha

/-- Settles O49: the bytes are kept, and so is the font that their reset contents come from. -/
theorem reservedRegionKeepsFont : Obligations.ReservedRegionKeepsFont := by
  unfold Obligations.ReservedRegionKeepsFont
  intro s t hr hm hi h
  have kept : ∀ a, a < 0x200 → t.byteAt a = s.byteAt a := fun a ha => step_keeps_reserved hr hm h ha
  refine ⟨fun a ha => ?_, kept⟩
  calc t.byteAt a = s.byteAt a := kept a ha
    _ = resetByte s.params.font a := hi a ha
    _ = resetByte t.params.font a := by rw [(step_hostStateKept h).params]

/-! ### What a store leaves, and a fetch after it (20_memory.md R66, R74; 43_memory_index.md R193, R194) -/

/-- A byte that was stored. -/
theorem StoredAtIndex.byteAt_written {bs : List Byte} {s t : State} (h : StoredAtIndex bs s t) {k : Nat}
    (hk : k < bs.length) (hw : 0x200 ≤ indexByte s k ∨ s.params.reservedWrite = .write) :
    t.byteAt (indexByte s k) = bs[k] := (h.1 k hk).trans (if_pos hw)

/-- A byte no store addressed, or whose every write was dropped. -/
theorem StoredAtIndex.byteAt_kept {bs : List Byte} {s t : State} (h : StoredAtIndex bs s t) {a : Nat}
    (hd : ∀ k, k < bs.length → a = indexByte s k → indexByte s k < 0x200 ∧ s.params.reservedWrite ≠ .write) :
    t.byteAt a = s.byteAt a := by
  by_cases hk : ∃ k, k < bs.length ∧ a = indexByte s k
  · obtain ⟨k, hk, rfl⟩ := hk
    obtain ⟨hlt, hne⟩ := hd k hk rfl
    exact (h.1 k hk).trans (if_neg (not_or.2 ⟨by omega, hne⟩))
  · exact h.2 a fun k hlt e => hk ⟨k, hlt, e⟩

/-- The run of writes of a store whose addresses are accepted and, where reserved, do not fault. -/
theorem writeBytes_storedAtIndex {s : State} {bs : List Byte} (hm : MemoryOk s) (hlen : bs.length ≤ 4096)
    (ha : AddressesOk s bs.length) (hr : ReservedOk s bs.length) :
    ∃ u, s.writeBytes (s.indexAddr 0) bs = .ok u ∧ { u with mem := s.mem } = s ∧ StoredAtIndex bs s u := by
  obtain ⟨u, hu, hk, hb⟩ := State.writeBytes_ok (a := s.indexAddr 0) hm hlen ha hr
  exact ⟨u, hu, State.writeBytes_keeps hu, hk, hb⟩

/-- FX33 that does not fault leaves its digits at I and changes nothing but memory. -/
theorem exec_ldBVx_stored {s : State} {x : Reg} (hm : MemoryOk s) (ha : AddressesOk s 3) (hr : ReservedOk s 3) :
    ∃ u, exec (.ldBVx x) s = .next u ∧ { u with mem := s.mem } = s ∧ StoredAtIndex (bcdDigits (s.reg x)) s u := by
  obtain ⟨u, hu, hs⟩ := writeBytes_storedAtIndex (bs := bcdDigits (s.reg x)) hm
    (show (3 : Nat) ≤ 4096 by decide) ha hr
  exact ⟨u, by rw [exec_ldBVx_eq, hu]; rfl, hs⟩

/-- FX55 that does not fault leaves V[0] to V[X] at I, advances I, and changes nothing else. -/
theorem exec_ldMemVx_stored {s : State} {x : Reg} (hm : MemoryOk s) (ha : AddressesOk s (x.val + 1))
    (hr : ReservedOk s (x.val + 1)) :
    ∃ u, exec (.ldMemVx x) s = .next (u.bumpI x) ∧ { u with mem := s.mem } = s ∧
      StoredAtIndex (s.regsUpTo x) s u := by
  have hl := length_regsUpTo s x
  obtain ⟨u, hu, hs⟩ := writeBytes_storedAtIndex (bs := s.regsUpTo x) hm (by omega) (by rwa [hl]) (by rwa [hl])
  exact ⟨u, by rw [exec_ldMemVx_eq, hu]; rfl, hs⟩

/-- Settles O32: both instructions store their bytes at I, and a fetch reads what the store left at PC and PC + 1. -/
theorem storedWordIsFetched : Obligations.StoredWordIsFetched := by
  unfold Obligations.StoredWordIsFetched
  intro s t x i bs pc hm hi ha hr h hpc
  have hs : StoredAtIndex bs s t := by
    obtain ⟨rfl, rfl⟩ | ⟨rfl, rfl⟩ := hi
    · have hl : (s.v.toList.take (x.val + 1)).length = x.val + 1 := length_regsUpTo s x
      rw [hl] at ha hr
      obtain ⟨u, hu, -, hs⟩ := exec_ldMemVx_stored hm ha hr
      cases hu.symm.trans h
      exact hs
    · obtain ⟨u, hu, -, hs⟩ := exec_ldBVx_stored hm ha hr
      cases hu.symm.trans h
      exact hs
  rw [← exec_params h] at hpc
  refine ⟨_, _, State.fetch_ok (s := { t with pc := pc }) hpc, fun k hk hw => ⟨fun e => ?_, fun e => ?_⟩,
    hs.byteAt_kept, hs.byteAt_kept⟩
  · rw [e]; exact hs.byteAt_written hk hw
  · rw [e]; exact hs.byteAt_written hk hw

end Sys2Proof
end

section
/-! PROOFS. The statements about the decoder and the opcode map (30_encoding.md R91 to R102). -/

namespace Sys2Proof

open Sys2Proof.Machine

/-! ### The fields as numbers (R91) -/

section
variable (w : Word)

theorem fieldFamily_toNat : (fieldFamily w).toNat = w.toNat / 4096 := by
  have := w.isLt
  simp only [fieldFamily, BitVec.extractLsb'_toNat, Nat.shiftRight_eq_div_pow]
  omega

theorem fieldX_val : (fieldX w).val = w.toNat / 256 % 16 := by
  simp [fieldX, Nat.shiftRight_eq_div_pow]

theorem fieldY_val : (fieldY w).val = w.toNat / 16 % 16 := by
  simp [fieldY, Nat.shiftRight_eq_div_pow]

theorem fieldN_toNat : (fieldN w).toNat = w.toNat % 16 := by
  simp [fieldN, BitVec.extractLsb'_toNat]

theorem fieldNN_toNat : (fieldNN w).toNat = w.toNat % 256 := by
  simp [fieldNN, BitVec.extractLsb'_toNat]

theorem fieldNNN_toNat : (fieldNNN w).toNat = w.toNat % 4096 := by
  simp [fieldNNN, BitVec.extractLsb'_toNat]

end

section
variable {w : Word}

theorem fieldFamily_eq_iff {f : Nibble} : fieldFamily w = f ↔ w.toNat / 4096 = f.toNat := by
  rw [← BitVec.toNat_inj, fieldFamily_toNat]

theorem fieldN_eq_iff {n : Nibble} : fieldN w = n ↔ w.toNat % 16 = n.toNat := by
  rw [← BitVec.toNat_inj, fieldN_toNat]

theorem fieldNN_eq_iff {nn : Byte} : fieldNN w = nn ↔ w.toNat % 256 = nn.toNat := by
  rw [← BitVec.toNat_inj, fieldNN_toNat]

end

@[simp] theorem fieldFamily_ofNat (n : Nat) : fieldFamily (BitVec.ofNat 16 n) = BitVec.ofNat 4 (n / 4096) := by
  rw [fieldFamily_eq_iff]
  simp only [BitVec.toNat_ofNat]
  omega

@[simp] theorem fieldN_ofNat (n : Nat) : fieldN (BitVec.ofNat 16 n) = BitVec.ofNat 4 n := by
  rw [fieldN_eq_iff]
  simp only [BitVec.toNat_ofNat]
  omega

@[simp] theorem fieldNN_ofNat (n : Nat) : fieldNN (BitVec.ofNat 16 n) = BitVec.ofNat 8 n := by
  rw [fieldNN_eq_iff]
  simp only [BitVec.toNat_ofNat]
  omega

/-- The sixteen families. -/
theorem nibble_cases : ∀ f : Nibble, f = 0x0#4 ∨ f = 0x1#4 ∨ f = 0x2#4 ∨ f = 0x3#4 ∨ f = 0x4#4 ∨ f = 0x5#4 ∨
    f = 0x6#4 ∨ f = 0x7#4 ∨ f = 0x8#4 ∨ f = 0x9#4 ∨ f = 0xA#4 ∨ f = 0xB#4 ∨ f = 0xC#4 ∨ f = 0xD#4 ∨ f = 0xE#4 ∨
    f = 0xF#4 := by decide

/-! ### Decoding what was encoded (R93, R101) -/

/-- The canonical word decodes to its instruction whatever the parameters: its digits pass the test of every selecting
field that a parameter may name. -/
theorem decode_encode (p : Params) (i : Instr) : decode p (encode i) = .instr i := by
  cases i with
  | cls | ret =>
    change decodeFamily0 p _ = _
    unfold decodeFamily0
    cases p.decode0 <;> rfl
  | seVxVy x y | sneVxVy x y =>
    cases h : p.decode59 <;> simp [decode, encode, decodeFamily59, h]
  | skpVx x | sknpVx x =>
    cases h : p.decodeE <;> simp [decode, encode, decodeFamilyE, h]
  | ldVxVy x y | orVxVy x y | andVxVy x y | xorVxVy x y | addVxVy x y | subVxVy x y | shrVxVy x y | subnVxVy x y
  | shlVxVy x y => simp [decode, encode, decodeFamily8]
  | ldVxDT x | ldVxK x | ldDTVx x | ldSTVx x | addIVx x | ldFVx x | ldBVx x | ldMemVx x | ldVxMem x =>
    simp [decode, encode, decodeFamilyF]
  | _ => simp [decode, encode]

/-- Settles O2. -/
theorem decodeInvertsEncode : Obligations.DecodeInvertsEncode := by
  unfold Obligations.DecodeInvertsEncode
  exact decode_encode

/-- Settles O1: each of the sixteen words is the encoding of the instruction its pattern names. -/
theorem sampleWordsDecode : Obligations.SampleWordsDecode := by
  unfold Obligations.SampleWordsDecode
  have h := decode_encode Params.default
  exact ⟨h .cls, h (.jpAddr 0xABC), h (.callAddr 0x204), h (.seVxByte 1 0x42), h (.sneVxByte 11 0x24),
    h (.seVxVy 1 12), h (.ldVxByte 14 0xFF), h (.addVxByte 10 0x02), h (.shlVxVy 1 2), h (.sneVxVy 3 4),
    h (.ldIAddr 0x123), h (.jpV0Addr 0xFED), h (.rndVxByte 1 0x0F), h (.drwVxVyNibble 0 1 5), h (.skpVx 1),
    h (.ldVxMem 1)⟩

/-! ### Each family by its fields (R95 to R100) -/

/-- Family F is the last arm of the decoder, the one for every other nibble. -/
theorem decode_familyF {p : Params} {w : Word} (h : fieldFamily w = 0xF#4) : decode p w = decodeFamilyF w := by
  simp [decode, h]

/-- Settles O5: once the family is known, the parameter says which field is compared. -/
theorem decodeParametersSelect : Obligations.DecodeParametersSelect := by
  unfold Obligations.DecodeParametersSelect
  intro p w
  have fam {f : Nibble} : w.toNat / 4096 = f.toNat → fieldFamily w = f := fieldFamily_eq_iff.2
  refine ⟨fun h => ?_, fun h => ?_, fun h => ?_, fun h => ?_⟩
  · simp only [decode, fam (f := 0x0#4) h, decodeFamily0, fieldN_eq_iff, fieldNN_eq_iff, ← BitVec.toNat_inj (x := w)]
    cases p.decode0 <;> rfl
  · simp only [decode, fam (f := 0xE#4) h, decodeFamilyE, fieldN_eq_iff, fieldNN_eq_iff]
    cases p.decodeE <;> rfl
  · simp only [decode, fam (f := 0x5#4) h, decodeFamily59, fieldN_eq_iff]
    cases p.decode59 <;> simp
  · simp only [decode, fam (f := 0x9#4) h, decodeFamily59, fieldN_eq_iff]
    cases p.decode59 <;> simp

/-- Settles O6. In families 8 and F both sides select on one field, the decoder as a bit vector and the statement as a
number: the cases of the decoder's match are the cases of the other. -/
theorem familiesDecodeByTheirFields : Obligations.FamiliesDecodeByTheirFields := by
  unfold Obligations.FamiliesDecodeByTheirFields
  intro p w
  have fam {f : Nibble} : w.toNat / 4096 = f.toNat → fieldFamily w = f := fieldFamily_eq_iff.2
  refine ⟨⟨fieldX_val w, fieldY_val w, fieldN_toNat w, fieldNN_toNat w, fieldNNN_toNat w⟩,
    fun h => ?_, fun h => ?_, fun h => ?_, fun h => ?_, fun h => ?_, fun h => ?_, fun h => ?_, fun h => ?_, fun h => ?_,
    fun h => ?_, fun h => ?_, fun h => ?_⟩
  · simp only [decode, fam (f := 0x1#4) h]
  · simp only [decode, fam (f := 0x2#4) h]
  · simp only [decode, fam (f := 0x3#4) h]
  · simp only [decode, fam (f := 0x4#4) h]
  · simp only [decode, fam (f := 0x6#4) h]
  · simp only [decode, fam (f := 0x7#4) h]
  · simp only [decode, fam (f := 0xA#4) h]
  · simp only [decode, fam (f := 0xB#4) h]
  · simp only [decode, fam (f := 0xC#4) h]
  · simp only [decode, fam (f := 0xD#4) h]
  · simp only [decode, fam (f := 0x8#4) h, decodeFamily8]
    split <;> simp_all [fieldN_eq_iff]
  · rw [decode_familyF (fam (f := 0xF#4) h), decodeFamilyF]
    split <;> simp_all [fieldNN_eq_iff]

/-! ### The no-op under the default parameters (R102) -/

section
variable {w : Word}

theorem decodeFamily0_default_eq_noOp_iff :
    decodeFamily0 Params.default w = .noOp ↔ w.toNat % 256 ≠ 0xE0 ∧ w.toNat % 256 ≠ 0xEE := by
  simp only [decodeFamily0, Params.default]
  split_ifs <;> simp_all [fieldNN_eq_iff]

theorem decodeFamilyE_default_eq_noOp_iff :
    decodeFamilyE Params.default w = .noOp ↔ w.toNat % 256 ≠ 0x9E ∧ w.toNat % 256 ≠ 0xA1 := by
  simp only [decodeFamilyE, Params.default]
  split_ifs <;> simp_all [fieldNN_eq_iff]

theorem decodeFamily59_default (f : Reg → Reg → Instr) :
    decodeFamily59 Params.default f w = .instr (f (fieldX w) (fieldY w)) := rfl

theorem decodeFamily8_eq_noOp_iff :
    decodeFamily8 w = .noOp ↔ w.toNat % 16 ∈ [0x8, 0x9, 0xA, 0xB, 0xC, 0xD, 0xF] := by
  unfold decodeFamily8
  split <;> simp_all [fieldN_eq_iff]
  omega

theorem decodeFamilyF_eq_noOp_iff :
    decodeFamilyF w = .noOp ↔ w.toNat % 256 ∉ [0x07, 0x0A, 0x15, 0x18, 0x1E, 0x29, 0x33, 0x55, 0x65] := by
  unfold decodeFamilyF
  split <;> simp_all [fieldNN_eq_iff]

end

/-- Settles O4: in each of the sixteen families, the decoder of that family says which of its words are the no-op. -/
theorem noOpWordsByDefault : Obligations.NoOpWordsByDefault := by
  unfold Obligations.NoOpWordsByDefault
  intro w
  rw [← fieldFamily_toNat]
  obtain hf | hf | hf | hf | hf | hf | hf | hf | hf | hf | hf | hf | hf | hf | hf | hf := nibble_cases (fieldFamily w)
  all_goals simp [decode, hf, decodeFamily59_default, decodeFamily0_default_eq_noOp_iff, decodeFamily8_eq_noOp_iff,
    decodeFamilyE_default_eq_noOp_iff, decodeFamilyF_eq_noOp_iff]

/-! ### The rows of the opcode map (R101)

Every mask of the table keeps the family and no field, the low nibble or the low byte, so a match is an equality of
these fields. -/

section
variable {w : Word}

@[simp] theorem and_F000_eq_iff {v : Word} (hv : v &&& 0xF000#16 = v) :
    w &&& 0xF000#16 = v ↔ fieldFamily w = fieldFamily v := by
  have e (u : Word) : u &&& 0xF000#16 = formNNN (fieldFamily u) 0 := and_F000 u
  refine ⟨fun h => ?_, fun h => ?_⟩
  · rw [← h, e, fieldFamily_formNNN]
  · rw [e, h, ← e, hv]

@[simp] theorem and_F00F_eq_iff {v : Word} (hv : v &&& 0xF00F#16 = v) :
    w &&& 0xF00F#16 = v ↔ fieldFamily w = fieldFamily v ∧ fieldN w = fieldN v := by
  have e (u : Word) : u &&& 0xF00F#16 = formXYN (fieldFamily u) 0 0 (fieldN u) := and_F00F u
  refine ⟨fun h => ?_, fun ⟨hf, hn⟩ => ?_⟩
  · rw [← h, e, fieldFamily_formXYN, fieldN_formXYN]
    exact ⟨rfl, rfl⟩
  · rw [e, hf, hn, ← e, hv]

@[simp] theorem and_F0FF_eq_iff {v : Word} (hv : v &&& 0xF0FF#16 = v) :
    w &&& 0xF0FF#16 = v ↔ fieldFamily w = fieldFamily v ∧ fieldNN w = fieldNN v := by
  have e (u : Word) : u &&& 0xF0FF#16 = formXNN (fieldFamily u) 0 (fieldNN u) := and_F0FF u
  refine ⟨fun h => ?_, fun ⟨hf, hn⟩ => ?_⟩
  · rw [← h, e, fieldFamily_formXNN, fieldNN_formXNN]
    exact ⟨rfl, rfl⟩
  · rw [e, hf, hn, ← e, hv]

/-- A word that matches a row decodes to what the row builds from its fields. -/
theorem decode_default_of_row {r : OpcodeRow} (hr : r ∈ opcodeTable) (h : w &&& r.mask = r.value) :
    decode Params.default w = .instr (r.build w) := by
  simp only [opcodeTable, List.mem_append, or_assoc] at hr
  obtain hr | hr | hr | hr := hr
  · simp only [opcodeRowsA, List.mem_cons, List.not_mem_nil, or_false] at hr
    obtain rfl | rfl | rfl | rfl | rfl | rfl | rfl | rfl | rfl := hr
    all_goals simp at h
    all_goals simp [decode, decodeFamily0, decodeFamily59, Params.default, h]
  · simp only [opcodeRowsB, List.mem_cons, List.not_mem_nil, or_false] at hr
    obtain rfl | rfl | rfl | rfl | rfl | rfl | rfl | rfl | rfl := hr
    all_goals simp at h
    all_goals simp [decode, decodeFamily8, h]
  · simp only [opcodeRowsC, List.mem_cons, List.not_mem_nil, or_false] at hr
    obtain rfl | rfl | rfl | rfl | rfl | rfl | rfl := hr
    all_goals simp at h
    all_goals simp [decode, decodeFamilyE, decodeFamily59, Params.default, h]
  · simp only [opcodeRowsD, List.mem_cons, List.not_mem_nil, or_false] at hr
    obtain rfl | rfl | rfl | rfl | rfl | rfl | rfl | rfl | rfl := hr
    all_goals simp at h
    all_goals simp [decode, decodeFamilyF, h]

/-- A word that no row matches is outside the twelve families whose every word matches one, and in the other four it has
none of the selecting values. -/
theorem decode_default_of_no_row (h : ∀ r ∈ opcodeTable, w &&& r.mask ≠ r.value) :
    decode Params.default w = .noOp := by
  simp [opcodeTable, opcodeRowsA, opcodeRowsB, opcodeRowsC, opcodeRowsD] at h
  obtain hf | hf | hf | hf | hf | hf | hf | hf | hf | hf | hf | hf | hf | hf | hf | hf := nibble_cases (fieldFamily w)
  all_goals simp [hf] at h
  · simp [decode, hf, decodeFamily0, Params.default, h]
  · simp [decode, hf, decodeFamily8, h]
  · simp [decode, hf, decodeFamilyE, Params.default, h]
  · simp [decode, hf, decodeFamilyF, h]

theorem decode_default_eq_noOp_iff :
    decode Params.default w = .noOp ↔ ∀ r ∈ opcodeTable, w &&& r.mask ≠ r.value := by
  refine ⟨fun h r hr hm => ?_, decode_default_of_no_row⟩
  cases (decode_default_of_row hr hm).symm.trans h

theorem decode_default_eq_instr_iff {i : Instr} :
    decode Params.default w = .instr i ↔ ∃ r ∈ opcodeTable, w &&& r.mask = r.value ∧ r.build w = i := by
  refine ⟨fun h => ?_, fun ⟨r, hr, hm, hb⟩ => hb ▸ decode_default_of_row hr hm⟩
  by_cases hrow : ∃ r ∈ opcodeTable, w &&& r.mask = r.value
  · obtain ⟨r, hr, hm⟩ := hrow
    exact ⟨r, hr, hm, Decoded.instr.inj ((decode_default_of_row hr hm).symm.trans h)⟩
  · push Not at hrow
    cases (decode_default_of_no_row hrow).symm.trans h

end

/-- The values of two different rows differ on a bit that both masks keep. -/
theorem opcodeTable_rows_differ : ∀ j k : Fin opcodeTable.length,
    opcodeTable[j].value &&& opcodeTable[k].mask = opcodeTable[k].value &&& opcodeTable[j].mask → j = k := by
  decide

/-- Settles O3. A word that two rows match agrees with both values where both masks keep it, so the rows do not
differ. -/
theorem decodeIsTheOpcodeMap : Obligations.DecodeIsTheOpcodeMap := by
  unfold Obligations.DecodeIsTheOpcodeMap
  refine ⟨rfl, fun w i => decode_default_eq_instr_iff, fun w => decode_default_eq_noOp_iff, fun w j k hj hk => ?_⟩
  apply opcodeTable_rows_differ
  rw [← hj, ← hk, BitVec.and_assoc, BitVec.and_assoc, BitVec.and_comm opcodeTable[j].mask]

end Sys2Proof
end

section
/-! PROOFS. The statement about source lines (30_encoding.md R105, R106). -/

namespace Sys2Proof

/-! ### An operand is read only when it is the value's own spelling -/

namespace Operand

section
variable {a b : Operand} {i : Instr}

theorem asReg_eq_some {x : Reg} : a.asReg = some x ↔ a = .v x := by
  cases a <;> simp [asReg, Fin.ext_iff]
  omega

theorem asByte_eq_some {nn : Byte} : a.asByte = some nn ↔ a = .num nn.toNat := by
  cases a <;> simp [asByte, ← BitVec.toNat_inj]
  have := nn.isLt
  omega

theorem asAddr_eq_some {nnn : Addr} : a.asAddr = some nnn ↔ a = .num nnn.toNat := by
  cases a <;> simp [asAddr, ← BitVec.toNat_inj]
  have := nnn.isLt
  omega

theorem asNibble_eq_some {n : Nibble} : a.asNibble = some n ↔ a = .num n.toNat := by
  cases a <;> simp [asNibble, ← BitVec.toNat_inj]
  have := n.isLt
  omega

@[simp] theorem asReg_v (x : Reg) : (Operand.v x).asReg = some x := asReg_eq_some.2 rfl

@[simp] theorem asByte_num (nn : Byte) : (Operand.num nn.toNat).asByte = some nn := asByte_eq_some.2 rfl

@[simp] theorem asByte_v (n : Nat) : (Operand.v n).asByte = none := rfl

@[simp] theorem asAddr_num (nnn : Addr) : (Operand.num nnn.toNat).asAddr = some nnn := asAddr_eq_some.2 rfl

@[simp] theorem asNibble_num (n : Nibble) : (Operand.num n.toNat).asNibble = some n := asNibble_eq_some.2 rfl

theorem eq_of_map_asReg {f : Reg → Instr} (h : a.asReg.map f = some i) : ∃ x : Reg, a = .v x ∧ i = f x := by
  obtain ⟨x, hx, rfl⟩ := Option.map_eq_some_iff.1 h
  exact ⟨x, asReg_eq_some.1 hx, rfl⟩

theorem eq_of_map_asAddr {f : Addr → Instr} (h : a.asAddr.map f = some i) :
    ∃ nnn : Addr, a = .num nnn.toNat ∧ i = f nnn := by
  obtain ⟨nnn, hn, rfl⟩ := Option.map_eq_some_iff.1 h
  exact ⟨nnn, asAddr_eq_some.1 hn, rfl⟩

theorem eq_of_regReg {f : Reg → Reg → Instr} (h : regReg f a b = some i) :
    ∃ x y : Reg, a = .v x ∧ b = .v y ∧ i = f x y := by
  unfold regReg at h
  split at h
  next x y hx hy => exact ⟨x, y, asReg_eq_some.1 hx, asReg_eq_some.1 hy, (Option.some.inj h).symm⟩
  next => cases h

theorem eq_of_regByteOrReg {f : Reg → Byte → Instr} {g : Reg → Reg → Instr} (h : regByteOrReg f g a b = some i) :
    (∃ (x : Reg) (nn : Byte), a = .v x ∧ b = .num nn.toNat ∧ i = f x nn) ∨
      ∃ x y : Reg, a = .v x ∧ b = .v y ∧ i = g x y := by
  unfold regByteOrReg at h
  split at h
  next x nn hx hn => exact .inl ⟨x, nn, asReg_eq_some.1 hx, asByte_eq_some.1 hn, (Option.some.inj h).symm⟩
  next => exact .inr (eq_of_regReg h)

end

end Operand

/-! ### A line that names an instruction is its spelling -/

namespace SourceLine

section
variable {args : List Operand} {i : Instr}

theorem eq_of_noArg {j : Instr} (h : noArg j args = some i) : args = [] ∧ i = j := by
  unfold noArg at h
  split at h
  next => exact ⟨rfl, (Option.some.inj h).symm⟩
  next => cases h

theorem eq_of_oneArg {f : Operand → Option Instr} (h : oneArg f args = some i) : ∃ a, args = [a] ∧ f a = some i := by
  unfold oneArg at h
  split at h
  next a => exact ⟨a, rfl, h⟩
  next => cases h

theorem eq_of_twoArgs {f : Operand → Operand → Option Instr} (h : twoArgs f args = some i) :
    ∃ a b, args = [a, b] ∧ f a b = some i := by
  unfold twoArgs at h
  split at h
  next a b => exact ⟨a, b, rfl, h⟩
  next => cases h

theorem eq_of_jpForm (h : jpForm args = some i) : ⟨.jp, args⟩ = i.toSource := by
  unfold jpForm at h
  split at h
  next => obtain ⟨nnn, rfl, rfl⟩ := Operand.eq_of_map_asAddr h; rfl
  next => obtain ⟨nnn, rfl, rfl⟩ := Operand.eq_of_map_asAddr h; rfl
  next => cases h

/-- The first form takes an address, the last two operands of any form, and every form between them a register. -/
theorem eq_of_ldForm (h : ldForm args = some i) : ⟨.ld, args⟩ = i.toSource := by
  unfold ldForm at h
  split at h
  case h_1 => obtain ⟨nnn, rfl, rfl⟩ := Operand.eq_of_map_asAddr h; rfl
  case h_10 => obtain ⟨x, nn, rfl, rfl, rfl⟩ | ⟨x, y, rfl, rfl, rfl⟩ := Operand.eq_of_regByteOrReg h <;> rfl
  case h_11 => cases h
  all_goals obtain ⟨x, rfl, rfl⟩ := Operand.eq_of_map_asReg h; rfl

theorem eq_of_addForm (h : addForm args = some i) : ⟨.add, args⟩ = i.toSource := by
  unfold addForm at h
  split at h
  next => obtain ⟨x, rfl, rfl⟩ := Operand.eq_of_map_asReg h; rfl
  next => obtain ⟨x, nn, rfl, rfl, rfl⟩ | ⟨x, y, rfl, rfl, rfl⟩ := Operand.eq_of_regByteOrReg h <;> rfl
  next => cases h

theorem eq_of_drwForm (h : drwForm args = some i) : ⟨.drw, args⟩ = i.toSource := by
  unfold drwForm at h
  split at h
  next =>
    split at h
    next x y n hx hy hn =>
      cases h
      rw [Operand.asReg_eq_some.1 hx, Operand.asReg_eq_some.1 hy, Operand.asNibble_eq_some.1 hn]
      rfl
    next => cases h
  next => cases h

/-- By the mnemonic: its form gives the operands, and with them the instruction. -/
theorem eq_toSource_of_instr? {l : SourceLine} (h : l.instr? = some i) : l = i.toSource := by
  obtain ⟨op, args⟩ := l
  cases op with
  | jp => exact eq_of_jpForm h
  | ld => exact eq_of_ldForm h
  | add => exact eq_of_addForm h
  | drw => exact eq_of_drwForm h
  | word => cases h
  | cls | ret =>
    obtain ⟨rfl, rfl⟩ := eq_of_noArg h
    rfl
  | call =>
    obtain ⟨a, rfl, ha⟩ := eq_of_oneArg h
    obtain ⟨nnn, rfl, rfl⟩ := Operand.eq_of_map_asAddr ha
    rfl
  | skp | sknp =>
    obtain ⟨a, rfl, ha⟩ := eq_of_oneArg h
    obtain ⟨x, rfl, rfl⟩ := Operand.eq_of_map_asReg ha
    rfl
  | se | sne =>
    obtain ⟨a, b, rfl, hab⟩ := eq_of_twoArgs h
    obtain ⟨x, nn, rfl, rfl, rfl⟩ | ⟨x, y, rfl, rfl, rfl⟩ := Operand.eq_of_regByteOrReg hab <;> rfl
  | or | and | xor | sub | shr | subn | shl =>
    obtain ⟨a, b, rfl, hab⟩ := eq_of_twoArgs h
    obtain ⟨x, y, rfl, rfl, rfl⟩ := Operand.eq_of_regReg hab
    rfl
  | rnd =>
    obtain ⟨a, b, rfl, hab⟩ := eq_of_twoArgs h
    split at hab
    next x nn hx hn =>
      cases hab
      rw [Operand.asReg_eq_some.1 hx, Operand.asByte_eq_some.1 hn]
      rfl
    next => cases hab

end

end SourceLine

/-- Every spelling is read back: the operands fit their fields, and the fixed operands select the form. -/
theorem instr?_toSource (i : Instr) : i.toSource.instr? = some i := by
  cases i <;> simp [Instr.toSource, SourceLine.instr?, SourceLine.noArg, SourceLine.oneArg, SourceLine.twoArgs,
    SourceLine.jpForm, SourceLine.ldForm, SourceLine.addForm, SourceLine.drwForm, Operand.regReg, Operand.regByteOrReg]

/-- Settles O7. -/
theorem sourceLineNamesItsInstruction : Obligations.SourceLineNamesItsInstruction := by
  unfold Obligations.SourceLineNamesItsInstruction
  refine ⟨fun l i => ⟨SourceLine.eq_toSource_of_instr?, fun h => h ▸ instr?_toSource i⟩, fun i => ?_⟩
  rw [assemble, instr?_toSource]

end Sys2Proof
end

section
/-! PROOFS. A started CORE always completes its step (30_encoding.md R103, 40_step_cycle.md R128). -/

namespace Sys2Proof

open Sys2Proof.Machine

/-- A halted step, a fetch that faults, the no-op and every instruction answer a next state. -/
theorem step_next {s : State} (hs : s.started = true) : ∃ t, step s = .next t := by
  cases hf : s.fault with
  | true => exact ⟨s, step_of_halted hs hf⟩
  | false =>
    rw [step_of_running hs hf]
    cases hw : s.fetch with
    | error c => exact ⟨_, runStep_of_fetch_error hw⟩
    | ok w =>
      rw [runStep_of_fetch_ok hw]
      cases decode s.params w with
      | instr i => exact exec_next i _
      | noOp => exact ⟨_, rfl⟩

/-- Settles O11: the step answers, and it keeps the started mark as it does for the host. -/
theorem startedStepAnswersNext : Obligations.StartedStepAnswersNext := by
  unfold Obligations.StartedStepAnswersNext
  intro s hs
  obtain ⟨t, ht⟩ := step_next hs
  exact ⟨t, ht, (step_hostStateKept ht).started.trans hs⟩

end Sys2Proof
end

section
/-! PROOFS. The step cycle (40_step_cycle.md R122 to R128): a step is its fetch, the advance and the meaning of the decoded
word, and the fetch is big-endian under the address policy. -/

namespace Sys2Proof

open Sys2Proof.Machine

/-! ### The step after its fetch (R123, R124, R127) -/

theorem step_of_fetch_ok {s : State} {w : Word} (hs : s.started = true) (hf : s.fault = false) (hw : s.fetch = .ok w) :
    step s = execDecoded (decode s.params w) (s.advance w) :=
  (step_of_running hs hf).trans (runStep_of_fetch_ok hw)

theorem step_of_fetch_error {s : State} {c : Fault} (hs : s.started = true) (hf : s.fault = false)
    (hc : s.fetch = .error c) : step s = .next (s.enterFault c s.pc s.opc) :=
  (step_of_running hs hf).trans (runStep_of_fetch_error hc)

/-- Settles O8: the step after a fetch that answers a word, at a word that decodes to an instruction. -/
theorem stepRunsDecodedInstruction : Obligations.StepRunsDecodedInstruction := by
  unfold Obligations.StepRunsDecodedInstruction
  intro s w i hs hf hw hd
  rw [step_of_fetch_ok hs hf hw, hd]
  rfl

/-- Settles O9: the step after a fetch that answers a word, at a word that decodes to the no-op. -/
theorem stepOfNoOpOnlyAdvances : Obligations.StepOfNoOpOnlyAdvances := by
  unfold Obligations.StepOfNoOpOnlyAdvances
  intro s w hs hf hw hd
  rw [step_of_fetch_ok hs hf hw, hd]
  rfl

/-! ### The fetch (R122) -/

/-- The first byte is the high one (20_memory.md R66). -/
theorem wordOfBytes_toNat (hi lo : Byte) : (wordOfBytes hi lo).toNat = hi.toNat * 256 + lo.toNat := by
  rw [wordOfBytes, BitVec.toNat_append, ← Nat.shiftLeft_add_eq_or_of_lt lo.isLt, Nat.shiftLeft_eq]

/-- A fetch with one of its two addresses out of range. -/
theorem fetch_addressRange {s : State} (hp : s.params.addrPolicy = .fault) (hpc : s.pc.toNat > 0xFFE) :
    s.fetch = .error .addressRange := by
  unfold State.fetch
  by_cases h : s.pc.toNat ≤ 0xFFF
  · rw [State.memRead_ok (.inr h), State.memRead_fault hp (by omega)]
  · rw [State.memRead_fault hp (by omega)]

/-- No meaning writes OPC, whether it completes or halts. -/
theorem execDecoded_opc {d : Decoded} {s t : State} (h : execDecoded d s = .next t) : t.opc = s.opc := by
  cases d with
  | noOp => cases h; rfl
  | instr i =>
    obtain ⟨c, rfl⟩ | k := exec_cases h
    · rfl
    · exact k.opc

/-- Settles O10. In range, the effective addresses of `fetch_ok` are PC and PC + 1 themselves. -/
theorem fetchIsBigEndianUnderPolicy : Obligations.FetchIsBigEndianUnderPolicy := by
  unfold Obligations.FetchIsBigEndianUnderPolicy
  intro s
  refine ⟨fun hp => ?_, fun _ hpc => ?_, fun hp hpc hs hf => ?_, fun w t hs hf hw h => ?_⟩
  · exact ⟨_, State.fetch_ok (.inl hp), wordOfBytes_toNat _ _⟩
  · have hw := State.fetch_ok (s := s) (.inr hpc)
    rw [Nat.mod_eq_of_lt (by omega), Nat.mod_eq_of_lt (by omega)] at hw
    exact ⟨_, hw, wordOfBytes_toNat _ _⟩
  · exact step_of_fetch_error hs hf (fetch_addressRange hp hpc)
  · rw [step_of_fetch_ok hs hf hw] at h
    exact execDecoded_opc h

end Sys2Proof
end

section
/-! PROOFS. Every fault of an instruction is known before its first write (40_step_cycle.md R129, 60_exceptions.md R251,
R254): each operation that may raise does so exactly when the decoded fault says. -/

namespace Sys2Proof

open Sys2Proof.Machine

/-! ### The fault of each operation that may raise -/

/-- The fault of an operation that may raise, if it raised one. -/
def raised {α : Type} : Except Fault α → Option Fault
  | .ok _ => none
  | .error c => some c

theorem raised_map {α β : Type} (f : α → β) (r : Except Fault α) : raised (r.map f) = raised r := by
  cases r <;> rfl

theorem ok_of_map_eq_ok {α β : Type} {f : α → β} {r : Except Fault α} {b : β} (h : r.map f = .ok b) :
    ∃ a, r = .ok a ∧ f a = b := by
  cases r with
  | ok a => cases h; exact ⟨a, rfl, rfl⟩
  | error c => cases h

section
variable (s : State)

theorem raised_pop : raised s.pop = if s.sp.val = 0 then some .stackUnderflow else none := by
  by_cases h : s.sp.val = 0
  · rw [State.pop_empty h, if_pos h]
    rfl
  · rw [State.pop_ok (by omega), if_neg h]
    rfl

theorem raised_push (a : Word) : raised (s.push a) = if s.sp.val = 16 then some .stackOverflow else none := by
  by_cases h : s.sp.val = 16
  · rw [State.push_full h, if_pos h]
    rfl
  · rw [State.push_ok (by omega), if_neg h]
    rfl

theorem raised_keyIndex (p : KeyIndex) (v : Byte) :
    raised (keyIndex p v) = if p = .fault ∧ v.toNat > 15 then some .keyRange else none := by
  cases p with
  | wrap => rfl
  | fault =>
    by_cases h : v.toNat < 16
    · rw [keyIndex, dif_pos h, if_neg (by omega)]
      rfl
    · rw [keyIndex, dif_neg h, if_pos ⟨rfl, by omega⟩]
      rfl

/-- Byte `k` of an access is `k` past the first one (43_memory_index.md R196). -/
theorem indexAddr_eq_add (k : Nat) : s.indexAddr k = s.indexAddr 0 + k := rfl

/-- An access through I has no address fault when its addresses wrap or stay inside the array. -/
theorem addresses_of_readFault_none {n : Nat} (h : s.readFault n = none) :
    s.params.addrPolicy = .wrap ∨ n = 0 ∨ s.indexAddr 0 + n ≤ 0x1000 := by
  unfold State.readFault at h
  split at h
  next => cases h
  next hc =>
    cases hp : s.params.addrPolicy with
    | wrap => exact .inl rfl
    | fault =>
      rw [indexAddr_eq_add] at hc
      exact .inr (by_contra fun h => hc ⟨hp, by omega, by omega⟩)

/-- An access through I with an address fault passes 0xFFF under `fault`, and the fault is ADDRESS_RANGE. -/
theorem addresses_of_readFault_some {n : Nat} {c : Fault} (h : s.readFault n = some c) :
    c = .addressRange ∧ s.params.addrPolicy = .fault ∧ 0 < n ∧ 0x1000 < s.indexAddr 0 + n := by
  unfold State.readFault at h
  split at h
  next hc =>
    cases h
    obtain ⟨hp, hn, ha⟩ := hc
    rw [indexAddr_eq_add] at ha
    exact ⟨rfl, hp, hn, by omega⟩
  next => cases h

theorem raised_readBytes (n : Nat) : raised (s.readBytes (s.indexAddr 0) n) = s.readFault n := by
  cases h : s.readFault n with
  | none =>
    rw [State.readBytes_ok (addresses_of_readFault_none s h)]
    rfl
  | some c =>
    obtain ⟨rfl, hp, hn, ha⟩ := addresses_of_readFault_some s h
    rw [State.readBytes_fault hp hn ha]
    rfl

/-- A run of writes at accepted addresses, none of them faulting in the reserved region, completes. -/
theorem raised_writeBytes_none {a : Nat} {xs : List Byte}
    (ha : s.params.addrPolicy = .wrap ∨ xs.length = 0 ∨ a + xs.length ≤ 0x1000)
    (hr : s.params.reservedWrite ≠ .fault ∨ ∀ k < xs.length, 0x200 ≤ (a + k) % 4096) :
    raised (s.writeBytes a xs) = none := by
  induction xs generalizing s a with
  | nil => rfl
  | cons x xs ih =>
    simp only [List.length_cons] at ha hr
    obtain ⟨u, hu⟩ : ∃ u, s.memWrite a x = .ok u :=
      ⟨_, State.memWrite_ok x (ha.imp id (by omega)) (hr.imp id fun h => h 0 (by omega))⟩
    rw [State.writeBytes, hu]
    refine ih u ?_ ?_ <;> rw [State.params_of_keeps (State.memWrite_keeps hu)]
    · exact ha.imp id (by omega)
    · exact hr.imp id fun h k hk => by have := h (k + 1) (by omega); rwa [Nat.add_right_comm]

/-- Whether a run of writes through I faults, and how, is known from I alone: no write of the run changes what the next
one may do, and a run that passes 0xFFF reaches no reserved address before it. -/
theorem raised_writeBytes {bs : List Byte} (hlen : bs.length ≤ 3584) :
    raised (s.writeBytes (s.indexAddr 0) bs) = s.writeFault bs.length := by
  unfold State.writeFault
  cases h : s.readFault bs.length with
  | some c =>
    obtain ⟨rfl, hp, hn, ha⟩ := addresses_of_readFault_some s h
    rw [State.writeBytes_addressRange hp hlen hn ha (by omega)]
    rfl
  | none =>
    have ha := addresses_of_readFault_none s h
    dsimp only
    split
    next hr =>
      rw [State.writeBytes_reserved ha hr.1 hr.2]
      rfl
    next hr =>
      refine raised_writeBytes_none s ha (or_iff_not_imp_left.2 fun hf k hk => ?_)
      by_contra hlt
      exact hr ⟨not_not.1 hf, k, hk, by rw [indexAddr_eq_add]; omega⟩

end

/-! ### The memory operation of FX33, FX55 and FX65, the instructions of the MEMSEQ state (R129) -/

/-- The instruction that MEMSEQ carries out. -/
def Machine.SeqOp.instr : SeqOp → Instr
  | .bcd x => .ldBVx x
  | .store x => .ldMemVx x
  | .load x => .ldVxMem x

/-- All the bytes of the instruction moved, before the I update. -/
def Machine.SeqOp.moveAll (o : SeqOp) (s : State) : Except Fault State :=
  match o with
  | .bcd x => s.writeBytes (s.indexAddr 0) (bcdDigits (s.reg x))
  | .store x => s.writeBytes (s.indexAddr 0) (s.regsUpTo x)
  | .load x => (s.readBytes (s.indexAddr 0) (x.val + 1)).map s.setRegs

section
variable (o : SeqOp) (s : State)

theorem exec_seqOp_eq : exec o.instr s = s.orFault ((o.moveAll s).map o.finish) := by
  cases o with
  | bcd x =>
    change exec (.ldBVx x) s = s.orFault ((s.writeBytes _ _).map id)
    rw [exec_ldBVx_eq, Except.map_id]
    rfl
  | store x => exact exec_ldMemVx_eq s x
  | load x =>
    change exec (.ldVxMem x) s = s.orFault (((s.readBytes _ _).map s.setRegs).map _)
    rw [exec_ldVxMem_eq]
    cases s.readBytes (s.indexAddr 0) (x.val + 1) <;> rfl

theorem raised_moveAll : raised (o.moveAll s) = o.faultOf s := by
  cases o with
  | bcd x => exact raised_writeBytes s (bs := bcdDigits (s.reg x)) (by simp [bcdDigits])
  | store x =>
    have h := raised_writeBytes s (bs := s.regsUpTo x) (by rw [length_regsUpTo]; omega)
    rwa [length_regsUpTo] at h
  | load x => exact (raised_map _ _).trans (raised_readBytes s _)

variable {o s}

theorem keptByExec_finish (u : State) : KeptByExec u (o.finish u) := by
  cases o with
  | bcd x => exact KeptByExec.refl u
  | store x | load x => exact keptByExec_bumpI u x

theorem keptByExec_moveAll {u : State} (h : o.moveAll s = .ok u) : KeptByExec s u := by
  cases o with
  | bcd x | store x => exact keptByExec_writeBytes h
  | load x =>
    obtain ⟨bs, -, rfl⟩ := ok_of_map_eq_ok h
    exact keptByExec_setRegs s bs

end

/-! ### The fault of an instruction -/

/-- The decoded fault `d` is the fault of the step from `s` to `t`: with none the instruction completes and keeps what
instructions keep, otherwise it halts with it and changes nothing else. -/
def FaultDecides (d : Option Fault) (s t : State) : Prop :=
  (d = none ∧ KeptByExec s t) ∨ ∃ c, d = some c ∧ t = haltedWith c.code s

/-- An instruction that is an operation which may raise, then `f`: its fault is the operation's. -/
theorem faultDecides_orFault {α : Type} {s t : State} {o : Host.Outcome State Fault Refusal} {r : Except Fault α}
    {f : α → State} {d : Option Fault} (ho : o = s.orFault (r.map f)) (hr : raised r = d) (h : o = .next t)
    (hf : ∀ a, r = .ok a → KeptByExec s (f a)) : FaultDecides d s t := by
  subst ho hr
  cases r with
  | ok a => cases h; exact .inl ⟨rfl, hf a rfl⟩
  | error c => cases h; exact .inr ⟨c, rfl, rfl⟩

theorem keptByExec_setPc (s : State) (a : Word) : KeptByExec s (s.setPc a) := ⟨rfl, rfl, rfl, rfl, rfl, rfl, rfl, rfl⟩

theorem seqOp_faultDecides (o : SeqOp) {s t : State} (h : exec o.instr s = .next t) : FaultDecides (o.faultOf s) s t :=
  faultDecides_orFault (exec_seqOp_eq o s) (raised_moveAll o s) h fun u hu =>
    (keptByExec_moveAll hu).trans (keptByExec_finish u)

/-- Every instruction takes exactly the fault computed before its first write. -/
theorem exec_faultDecides {i : Instr} {s t : State} (h : exec i s = .next t) : FaultDecides (faultOf i s) s t := by
  cases i with
  | ret =>
    exact faultDecides_orFault (exec_ret_eq s) (raised_pop s) h fun a ha =>
      (keptByExec_pop ha).trans (keptByExec_setPc _ _)
  | callAddr nnn =>
    exact faultDecides_orFault (exec_callAddr_eq s nnn) (raised_push s s.pc) h fun u hu =>
      (keptByExec_push hu).trans (keptByExec_setPc _ _)
  | skpVx x => exact faultDecides_orFault (exec_skpVx_eq s x) (raised_keyIndex _ _) h fun k _ => keptByExec_skipIf s _
  | sknpVx x => exact faultDecides_orFault (exec_sknpVx_eq s x) (raised_keyIndex _ _) h fun k _ => keptByExec_skipIf s _
  | drwVxVyNibble x y n =>
    exact faultDecides_orFault (exec_drwVxVyNibble_eq s x y n) (raised_readBytes s _) h fun rows _ =>
      keptByExec_drawSprite s x y rows
  | ldBVx x => exact seqOp_faultDecides (.bcd x) h
  | ldMemVx x => exact seqOp_faultDecides (.store x) h
  | ldVxMem x => exact seqOp_faultDecides (.load x) h
  | ldVxK x =>
    cases hk : s.keySelect with
    | none =>
      rw [exec_ldVxK_none hk] at h
      cases h
      exact .inl ⟨rfl, keptByExec_setPc s _⟩
    | some k =>
      rw [exec_ldVxK_some hk] at h
      cases h
      exact .inl ⟨rfl, (keptByExec_afterKeySelect s).trans (keptByExec_setReg _ x _)⟩
  | rndVxByte x nn =>
    cases h
    exact .inl ⟨rfl, (keptByExec_afterRand s).trans (keptByExec_setReg _ x _)⟩
  | seVxByte x nn | sneVxByte x nn | seVxVy x y | sneVxVy x y =>
    cases h
    exact .inl ⟨rfl, keptByExec_skipIf s _⟩
  | _ =>
    cases h
    exact .inl ⟨rfl, rfl, rfl, rfl, rfl, rfl, rfl, rfl, rfl⟩

/-! ### What the decoded fault reads (R129) -/

section
variable {s t : State} (hi : t.i = s.i) (hp : t.params = s.params) (n : Nat)
include hi hp

theorem readFault_congr : t.readFault n = s.readFault n := by
  unfold State.readFault State.indexAddr
  rw [hi, hp]

theorem writeFault_congr : t.writeFault n = s.writeFault n := by
  unfold State.writeFault State.indexAddr
  rw [readFault_congr hi hp, hi, hp]

end

/-- States that agree in SP, I, the parameters and the register a key test names take the same fault. -/
theorem faultOf_congr {i : Instr} {s t : State} (hsp : t.sp = s.sp) (hi : t.i = s.i) (hp : t.params = s.params)
    (hx : ∀ x : Reg, (i = .skpVx x ∨ i = .sknpVx x) → t.reg x = s.reg x) : faultOf i t = faultOf i s := by
  cases i with
  | ret | callAddr nnn => simp only [faultOf, hsp]
  | skpVx x => simp only [faultOf, hp, hx x (.inl rfl)]
  | sknpVx x => simp only [faultOf, hp, hx x (.inr rfl)]
  | drwVxVyNibble x y n => exact readFault_congr hi hp _
  | ldVxMem x => exact readFault_congr hi hp _
  | ldBVx x | ldMemVx x => exact writeFault_congr hi hp _
  | _ => rfl

/-- Settles O43: a completed instruction keeps FAULT, so it is the decoded fault that says which of the two happened. -/
theorem faultsAreKnownAtDecode : Obligations.FaultsAreKnownAtDecode := by
  unfold Obligations.FaultsAreKnownAtDecode
  refine ⟨fun i s t hs h => ?_, fun i s t => faultOf_congr⟩
  exact (exec_faultDecides h).imp_left fun ⟨hn, hk⟩ => ⟨hn, hk.fault.trans hs⟩

end Sys2Proof
end

section
/-! PROOFS. The clocked dispatch state machine of 40_step_cycle.md R129 does what Step does: from each of its states, quiet
cycles bring the instruction it is at to its end. -/

namespace Sys2Proof

open Sys2Proof.Machine

/-! ### The RAND input is not seen by the instructions of the DRAW and MEMSEQ states -/

section
variable (s : State)

theorem readBytes_withdrawRand (a n : Nat) : s.withdrawRand.readBytes a n = s.readBytes a n := by
  induction n generalizing a with
  | zero => rfl
  | succ n ih => simp only [State.readBytes, State.memRead_congr (s := s) (t := s.withdrawRand) rfl rfl, ih]

theorem memWrite_withdrawRand (a : Nat) (x : Byte) :
    s.withdrawRand.memWrite a x = (s.memWrite a x).map State.withdrawRand := by
  unfold State.memWrite
  rw [State.withdrawRand_params]
  cases ea s.params.addrPolicy a with
  | error c => rfl
  | ok e =>
    dsimp only
    split
    · rfl
    · split <;> rfl

theorem writeBytes_withdrawRand (a : Nat) (xs : List Byte) :
    s.withdrawRand.writeBytes a xs = (s.writeBytes a xs).map State.withdrawRand := by
  induction xs generalizing s a with
  | nil => rfl
  | cons x xs ih =>
    simp only [State.writeBytes, memWrite_withdrawRand]
    cases s.memWrite a x with
    | error c => rfl
    | ok u => exact ih u (a + 1)

theorem setCollision_withdrawRand (hit : Bool) :
    s.withdrawRand.setCollision hit = (s.setCollision hit).withdrawRand := by
  unfold State.setCollision
  rw [State.withdrawRand_params]
  split <;> rfl

theorem drawSprite_withdrawRand (x y : Reg) (rows : List Byte) :
    s.withdrawRand.drawSprite x y rows = (s.drawSprite x y rows).withdrawRand :=
  congrArg (State.setDirty · true) (setCollision_withdrawRand (s.setFb _) _)

theorem moveAll_withdrawRand (o : SeqOp) :
    o.moveAll s.withdrawRand = (o.moveAll s).map State.withdrawRand := by
  cases o with
  | bcd x | store x => exact writeBytes_withdrawRand s _ _
  | load x =>
    change (s.withdrawRand.readBytes (s.indexAddr 0) (x.val + 1)).map _ = (Except.map _ _).map _
    rw [readBytes_withdrawRand]
    cases s.readBytes (s.indexAddr 0) (x.val + 1) <;> rfl

end

/-- An operation that may raise and an ending `f`, neither of which sees the RAND input. -/
theorem orFault_withdrawRand {α : Type} {s t : State} {r r' : Except Fault α} {f f' : α → State} (g : α → α)
    (hr : r' = r.map g) (hf : ∀ a, f' (g a) = (f a).withdrawRand) (h : s.orFault (r.map f) = .next t) :
    s.withdrawRand.orFault (r'.map f') = .next t.withdrawRand := by
  subst hr
  cases r with
  | ok a => cases h; exact congrArg Host.Outcome.next (hf a)
  | error c => cases h; rfl

theorem exec_seqOp_withdrawRand {o : SeqOp} {s t : State} (h : exec o.instr s = .next t) :
    exec o.instr s.withdrawRand = .next t.withdrawRand := by
  rw [exec_seqOp_eq] at h ⊢
  refine orFault_withdrawRand State.withdrawRand (moveAll_withdrawRand s o) (fun u => ?_) h
  cases o <;> rfl

theorem exec_drwVxVyNibble_withdrawRand {x y : Reg} {n : Nibble} {s t : State}
    (h : exec (.drwVxVyNibble x y n) s = .next t) :
    exec (.drwVxVyNibble x y n) s.withdrawRand = .next t.withdrawRand := by
  rw [exec_drwVxVyNibble_eq] at h ⊢
  refine orFault_withdrawRand id ?_ (drawSprite_withdrawRand s x y) h
  rw [Except.map_id]
  exact readBytes_withdrawRand s _ _

/-! ### Quiet cycles up to the end of an operation -/

/-- `n` quiet cycles with `r` on the RAND input bring the port machine from `m` to rest in the state `t`. -/
def Settles (r : Byte) (n : Nat) (m : PortState) (t : State) : Prop :=
  cycles (List.replicate n (PortsIn.quiet r)) m = .next (PortState.rest t)

/-- At rest, halted or not, a cycle without `rst_req` serves the requests. -/
theorem cycle_rest {p : PortsIn} {s : State} (hp : p.rstReq = false) : cycle p (PortState.rest s) = idleCycle p s := by
  unfold cycle PortState.rest restPhase
  rw [hp]
  cases s.fault <;> rfl

section
variable {r : Byte} {n : Nat} {t : State} {m m' : PortState}

/-- A machine at rest stays as it is. -/
theorem Settles.rest : Settles r n (PortState.rest t) t := by
  have hc : cycle (PortsIn.quiet r) (PortState.rest t) = .next (PortState.rest t) := cycle_rest rfl
  induction n with
  | zero => rfl
  | succ n ih =>
    unfold Settles
    rw [List.replicate_succ, cycles, hc]
    exact ih

/-- One cycle more, before the others. -/
theorem Settles.cons (h : cycle (PortsIn.quiet r) m = .next m') (hm : Settles r n m' t) : Settles r (n + 1) m t := by
  unfold Settles
  rw [List.replicate_succ, cycles, h]
  exact hm

/-- The closing cycle of an operation, and any number after it. -/
theorem Settles.last (h : cycle (PortsIn.quiet r) m = .next (PortState.rest t)) : Settles r (n + 1) m t := .cons h .rest

theorem Settles.last_of_lt {k : Nat} (hn : k < n) (h : cycle (PortsIn.quiet r) m = .next (PortState.rest t)) :
    Settles r n m t := by
  obtain ⟨j, rfl⟩ := Nat.exists_eq_succ_of_ne_zero (Nat.ne_zero_of_lt hn)
  exact .last h

end

/-! ### FETCH, DECODE and EXEC -/

section
variable {s t : State}

theorem fetchCycle_error {c : Fault} (hc : s.fetch = .error c) :
    fetchCycle s = .next (PortState.rest (s.enterFault c s.pc s.opc)) := by
  unfold fetchCycle
  rw [hc]

theorem fetchCycle_ok {w : Word} (hw : s.fetch = .ok w) : fetchCycle s = .next ⟨s.advance w, .decode⟩ := by
  unfold fetchCycle
  rw [hw]

theorem decodeCycle_noOp (hd : decode s.params s.opc = .noOp) : decodeCycle s = .next (PortState.rest s) := by
  unfold decodeCycle
  rw [hd]

theorem decodeCycle_instr {i : Instr} (hd : decode s.params s.opc = .instr i) :
    decodeCycle s = .next ⟨s, phaseOf i⟩ := by
  unfold decodeCycle
  rw [hd]

theorem execCycle_next {r : Byte} {i : Instr} (h : exec i (s.presentRand r) = .next t) :
    execCycle r i s = .next (PortState.rest t.withdrawRand) := by
  unfold execCycle
  rw [h]

end

/-! ### The bytes of a run, one by one -/

theorem regsUpTo_getElem {s : State} {x : Reg} {k : Nat} (hk : k < (s.regsUpTo x).length) :
    (s.regsUpTo x)[k] = s.reg (Fin.ofNat 16 k) := by
  have h16 : k < 16 := by
    rw [length_regsUpTo] at hk
    omega
  simp [State.regsUpTo, State.reg, Nat.mod_eq_of_lt h16]

/-- A run of reads gives the bytes its addresses read as. -/
theorem memRead_of_readBytes {s : State} {a n : Nat} {bs : List Byte} (h : s.readBytes a n = .ok bs) {k : Nat}
    (hk : k < bs.length) : s.memRead (a + k) = .ok bs[k] := by
  induction n generalizing a bs k with
  | zero => cases h; exact absurd hk (Nat.not_lt_zero k)
  | succ n ih =>
    unfold State.readBytes at h
    split at h
    next => cases h
    next b hb =>
      split at h
      next => cases h
      next bs' hbs =>
        cases h
        cases k with
        | zero => exact hb
        | succ k =>
          rw [show a + (k + 1) = a + 1 + k by omega]
          exact ih hbs (Nat.lt_of_succ_lt_succ hk)

section
variable (s : State)

theorem setRegs_nil : s.setRegs [] = s := by
  have hv : Vector.ofFn (fun k : Fin 16 => s.v[k]) = s.v := by ext; simp
  exact congrArg (fun v => { s with v := v }) hv

/-- One register more is loaded. -/
theorem setReg_setRegs_take {bs : List Byte} {k : Nat} (hk : k < bs.length) (h16 : k < 16) :
    (s.setRegs (bs.take k)).setReg (Fin.ofNat 16 k) bs[k] = s.setRegs (bs.take (k + 1)) := by
  have hv : (Vector.ofFn fun j : Fin 16 => (bs.take k).getD j s.v[j]).set (Fin.ofNat 16 k) bs[k] =
      Vector.ofFn fun j : Fin 16 => (bs.take (k + 1)).getD j s.v[j] := by
    refine Vector.ext fun j hj => ?_
    have hmod : k % 16 = k := Nat.mod_eq_of_lt h16
    obtain hlt | rfl | hgt := Nat.lt_trichotomy j k
    · simp [List.getElem?_take, hmod, hlt, Nat.le_of_lt hlt, Nat.ne_of_gt hlt]
    · simp [hmod, hk]
    · simp [List.getElem?_take, hmod, Nat.not_lt_of_gt hgt, Nat.not_le_of_gt hgt, Nat.ne_of_lt hgt]
  simp only [State.setRegs, State.setReg, hv]

theorem memRead_setRegs (bs : List Byte) (a : Nat) : (s.setRegs bs).memRead a = s.memRead a :=
  State.memRead_congr (s.setRegs_params bs) (s.setRegs_mem bs) a

theorem indexAddr_setRegs (bs : List Byte) (k : Nat) : (s.setRegs bs).indexAddr k = s.indexAddr k :=
  congrArg (·.toNat + k) (s.setRegs_i bs)

end

/-! What one cycle of each MEMSEQ instruction does, in the terms of the whole run's bytes. -/

section
variable {s : State} {x : Reg} {k : Nat}

theorem bcd_move (hk : k < (bcdDigits (s.reg x)).length) (m : List Host.Cell) :
    (SeqOp.bcd x).move k { s with mem := m } =
      State.memWrite { s with mem := m } (s.indexAddr k) (bcdDigits (s.reg x))[k] :=
  congrArg (State.memWrite _ _) (List.getD_eq_getElem _ _ hk)

theorem store_move (hk : k < (s.regsUpTo x).length) (m : List Host.Cell) :
    (SeqOp.store x).move k { s with mem := m } =
      State.memWrite { s with mem := m } (s.indexAddr k) (s.regsUpTo x)[k] :=
  congrArg (State.memWrite _ _) (regsUpTo_getElem hk).symm

theorem load_move {b : Byte} (h : s.memRead (s.indexAddr k) = .ok b) :
    (SeqOp.load x).move k s = .ok (s.setReg (Fin.ofNat 16 k) b) := by
  unfold SeqOp.move
  dsimp only
  rw [h]

end

/-! ### MEMSEQ -/

section
variable {o : SeqOp} {s t : State} {k : Nat}

/-- A fault decided before byte 0 halts the CORE in the cycle of byte 0. -/
theorem memseqCycle_fault {c : Fault} (hc : o.faultOf s = some c) :
    memseqCycle o 0 s = .next (PortState.rest (haltedWith c.code s)) := by
  have hcount : 0 < o.count := by cases o <;> exact Nat.succ_pos _
  unfold memseqCycle
  rw [if_pos hcount, if_pos rfl, hc]
  rfl

theorem memseqCycle_move {u : State} (hk : k < o.count) (hf : k = 0 → o.faultOf s = none) (hu : o.move k s = .ok u) :
    memseqCycle o k s = .next ⟨u, .memseq o (k + 1)⟩ := by
  unfold memseqCycle
  rw [if_pos hk, ite_eq_right_iff.2 hf]
  dsimp only
  rw [hu]

theorem memseqCycle_finish : memseqCycle o o.count s = .next (PortState.rest (o.finish s)) := by
  unfold memseqCycle
  rw [if_neg (Nat.lt_irrefl _)]

/-- MEMSEQ from byte `k` on, where `R k` holds of the states that have the bytes before `k` moved: each byte's cycle
leads from `R k` to `R (k + 1)`, and only `t` has them all moved. -/
theorem settles_memseq {r : Byte} {R : Nat → State → Prop}
    (hmove : ∀ k < o.count, ∀ u, R k u → ∃ v, o.move k u = .ok v ∧ R (k + 1) v)
    (hend : ∀ u, R o.count u → u = t)
    {n : Nat} (hk : k ≤ o.count) (hn : o.count - k < n) (hs : R k s) (hf : k = 0 → o.faultOf s = none) :
    Settles r n ⟨s, .memseq o k⟩ (o.finish t) := by
  induction n generalizing k s with
  | zero => omega
  | succ n ih =>
    obtain rfl | hlt := Nat.eq_or_lt_of_le hk
    · rw [← hend s hs]
      exact .last memseqCycle_finish
    · obtain ⟨v, hv, hR⟩ := hmove k hlt s hs
      exact .cons (memseqCycle_move hlt hf hv) (ih (by omega) (by omega) hR (by omega))

/-- `u` is `s` but for its memory, and writing the bytes of `bs` from byte `k` on leads from it to `t`. -/
def WritesFrom (bs : List Byte) (s t : State) (k : Nat) (u : State) : Prop :=
  { s with mem := u.mem } = u ∧ u.writeBytes (s.indexAddr k) (bs.drop k) = .ok t

theorem writesFrom_succ {bs : List Byte} {u : State} (hk : k < bs.length) (h : WritesFrom bs s t k u) :
    ∃ v, u.memWrite (s.indexAddr k) bs[k] = .ok v ∧ WritesFrom bs s t (k + 1) v := by
  obtain ⟨hu, hw⟩ := h
  rw [List.drop_eq_getElem_cons hk, State.writeBytes] at hw
  split at hw
  next => cases hw
  next v hv =>
    have hs := congrArg (fun a : State => { a with mem := v.mem }) hu
    have hkeeps := congrArg (fun a : State => { a with mem := v.mem }) (State.memWrite_keeps hv)
    exact ⟨v, hv, hs.trans hkeeps.symm, hw⟩

theorem writesFrom_length {bs : List Byte} {u : State} (h : WritesFrom bs s t bs.length u) : u = t := by
  obtain ⟨-, hw⟩ := h
  rw [List.drop_length] at hw
  cases hw
  rfl

/-- MEMSEQ for an instruction that writes the bytes `bs`. -/
theorem settles_writes {r : Byte} {bs : List Byte} (hlen : bs.length = o.count)
    (hmove : ∀ k (h : k < bs.length) m, o.move k { s with mem := m } =
      State.memWrite { s with mem := m } (s.indexAddr k) bs[k])
    (ht : s.writeBytes (s.indexAddr 0) bs = .ok t) {n : Nat} (hn : o.count < n) (hf : o.faultOf s = none) :
    Settles r n ⟨s, .memseq o 0⟩ (o.finish t) := by
  refine settles_memseq (R := WritesFrom bs s t) (fun k hk u hu => ?_) (fun u hu => writesFrom_length (hlen ▸ hu))
    (Nat.zero_le _) hn ⟨rfl, ht⟩ fun _ => hf
  have hk' : k < bs.length := hlen ▸ hk
  have hm := hmove k hk' u.mem
  rw [hu.1] at hm
  rw [hm]
  exact writesFrom_succ hk' hu

end

/-- MEMSEQ for an instruction that reads its bytes into V0, V1, …: before byte `k` the first `k` registers are loaded. -/
theorem settles_load {r : Byte} {x : Reg} {s : State} {bs : List Byte}
    (hbs : s.readBytes (s.indexAddr 0) (x.val + 1) = .ok bs) {n : Nat} (hn : x.val + 1 < n)
    (hf : (SeqOp.load x).faultOf s = none) :
    Settles r n ⟨s, .memseq (.load x) 0⟩ ((SeqOp.load x).finish (s.setRegs bs)) := by
  have hlen : bs.length = (SeqOp.load x).count := readBytes_length hbs
  refine settles_memseq (R := fun k u => u = s.setRegs (bs.take k)) (fun k hk u hu => ?_) (fun u hu => ?_)
    (Nat.zero_le _) hn (by rw [List.take_zero, setRegs_nil]) fun _ => hf
  · subst hu
    have hk' : k < bs.length := hlen ▸ hk
    have hread : (s.setRegs (bs.take k)).memRead ((s.setRegs (bs.take k)).indexAddr k) = .ok bs[k] := by
      rw [indexAddr_setRegs, memRead_setRegs]
      exact memRead_of_readBytes hbs hk'
    have h16 : k < 16 := Nat.lt_of_lt_of_le hk x.isLt
    exact ⟨_, load_move hread, setReg_setRegs_take s hk' h16⟩
  · rw [hu, ← hlen, List.take_length]

/-- MEMSEQ carries out its instruction, in a cycle for each byte and one more. -/
theorem settles_seqOp {r : Byte} {o : SeqOp} {s t : State} (h : exec o.instr s = .next t) {n : Nat} (hn : o.count < n) :
    Settles r n ⟨s, .memseq o 0⟩ t := by
  have hf := raised_moveAll o s
  rw [exec_seqOp_eq] at h
  cases hm : o.moveAll s with
  | error c =>
    rw [hm] at h hf
    cases h
    exact .last_of_lt hn (memseqCycle_fault hf.symm)
  | ok u =>
    rw [hm] at h hf
    cases h
    cases o with
    | bcd x => exact settles_writes rfl (fun _ => bcd_move) hm hn hf.symm
    | store x => exact settles_writes (length_regsUpTo s x) (fun _ => store_move) hm hn hf.symm
    | load x =>
      obtain ⟨bs, hbs, rfl⟩ := ok_of_map_eq_ok hm
      exact settles_load hbs hn hf.symm

/-! ### DRAW -/

section
variable {x y : Reg} {n : Nibble} {s t : State} {k : Nat} {hit : Bool}

/-- A fault decided before row 0 halts the CORE in the cycle of row 0. -/
theorem drawCycle_fault {c : Fault} (hc : s.readFault n.toNat = some c) :
    drawCycle x y n 0 hit s = .next (PortState.rest (haltedWith c.code s)) := by
  obtain ⟨-, -, hn, -⟩ := addresses_of_readFault_some s hc
  unfold drawCycle
  rw [if_pos hn, if_pos rfl, hc]
  rfl

theorem drawCycle_row {row : Byte} (hk : k < n.toNat) (hf : k = 0 → s.readFault n.toNat = none)
    (hrow : s.memRead (s.indexAddr k) = .ok row) :
    drawCycle x y n k hit s =
      let acc := drawRow s.params.drawEdge (startColumn (s.reg x)) (startRow (s.reg y)) row k (s.fb, hit)
      .next ⟨s.setFb acc.1, .draw x y n (k + 1) acc.2⟩ := by
  unfold drawCycle
  rw [if_pos hk, ite_eq_right_iff.2 hf]
  dsimp only
  rw [hrow]

theorem drawCycle_finish : drawCycle x y n n.toNat hit s = .next (PortState.rest (s.finishDraw (s.fb, hit))) := by
  unfold drawCycle
  rw [if_neg (Nat.lt_irrefl _)]

/-- DRAW from row `k` on, with the framebuffer and the collision bit that the rows before it left. -/
theorem settles_draw {r : Byte} {rows : List Byte} (hlen : rows.length = n.toNat)
    (hrows : ∀ k (h : k < rows.length), s.memRead (s.indexAddr k) = .ok rows[k]) (hf : s.readFault n.toNat = none)
    {m : Nat} {acc : Frame × Bool} (hk : k ≤ n.toNat) (hm : n.toNat - k < m) :
    Settles r m ⟨s.setFb acc.1, .draw x y n k acc.2⟩ (s.finishDraw
      (drawRows s.params.drawEdge (startColumn (s.reg x)) (startRow (s.reg y)) (rows.drop k) k acc)) := by
  induction m generalizing k acc with
  | zero => omega
  | succ m ih =>
    obtain rfl | hlt := Nat.eq_or_lt_of_le hk
    · rw [← hlen, List.drop_length]
      exact hlen ▸ Settles.last drawCycle_finish
    · rw [List.drop_eq_getElem_cons (by omega)]
      exact .cons (drawCycle_row (s := s.setFb acc.1) hlt (fun _ => hf) (hrows k (by omega))) (ih (by omega) (by omega))

/-- DRAW carries out DXYN, in a cycle for each row and one more. -/
theorem settles_drwVxVyNibble {r : Byte} (h : exec (.drwVxVyNibble x y n) s = .next t) {m : Nat} (hm : n.toNat < m) :
    Settles r m ⟨s, .draw x y n 0 false⟩ t := by
  have hf := raised_readBytes s n.toNat
  rw [exec_drwVxVyNibble_eq] at h
  cases hb : s.readBytes (s.indexAddr 0) n.toNat with
  | error c =>
    rw [hb] at h hf
    cases h
    exact .last_of_lt hm (drawCycle_fault hf.symm)
  | ok rows =>
    rw [hb] at h hf
    cases h
    exact settles_draw (acc := (s.fb, false)) (readBytes_length hb) (fun k hk => memRead_of_readBytes hb hk) hf.symm
      (Nat.zero_le _) hm

end

/-! ### The whole step -/

/-- Each instruction is carried out in the state DECODE sends it to, within 18 quiet cycles. -/
theorem settles_phaseOf {r : Byte} {i : Instr} {s t : State} (h : exec i (s.presentRand r) = .next t) :
    Settles r 18 ⟨s.withdrawRand, phaseOf i⟩ t.withdrawRand := by
  cases i with
  | cls => cases h; exact .last rfl
  | drwVxVyNibble x y n => exact settles_drwVxVyNibble (exec_drwVxVyNibble_withdrawRand h) (by omega)
  | ldBVx x => exact settles_seqOp (exec_seqOp_withdrawRand (o := .bcd x) h) (show 3 < 18 by omega)
  | ldMemVx x => exact settles_seqOp (exec_seqOp_withdrawRand (o := .store x) h) (show x.val + 1 < 18 by omega)
  | ldVxMem x => exact settles_seqOp (exec_seqOp_withdrawRand (o := .load x) h) (show x.val + 1 < 18 by omega)
  | _ => exact .last (execCycle_next h)

/-- The cycle of a step request on a started CORE that is not halted begins the fetch. -/
theorem cycle_stepReq {r : Byte} {s : State} (hs : s.started = true) (hf : s.fault = false) :
    cycle { PortsIn.quiet r with stepReq := true } (PortState.rest s) = .next ⟨s.withdrawRand, .fetch⟩ := by
  rw [cycle_rest rfl]
  change (if (!s.started) = true then _ else Host.Outcome.next (if (!s.fault) = true then _ else _)) = _
  rw [hs, hf]
  rfl

/-- Settles O56: the four things a step can do are the four ways from FETCH back to rest. -/
theorem portStepRefinesStep : Obligations.PortStepRefinesStep := by
  unfold Obligations.PortStepRefinesStep
  intro s r hs hf
  obtain ⟨t, ht⟩ := step_next (s := s.presentRand r) hs
  refine ⟨t.withdrawRand, ?_, ?_⟩
  · change s.stepWith r = _
    unfold State.stepWith
    rw [ht]
  · rw [cycles, cycle_stepReq hs hf]
    change Settles r 20 ⟨s.withdrawRand, .fetch⟩ t.withdrawRand
    obtain ⟨-, ⟨hh, -⟩ | ⟨-, c, hc, rfl⟩ | ⟨-, w, hw, hd, rfl⟩ | ⟨-, w, i, hw, hd, hx⟩⟩ := step_cases ht
    · exact absurd (hf.symm.trans hh) (by decide)
    · exact .last (fetchCycle_error hc)
    · exact .cons (fetchCycle_ok hw) (.last (decodeCycle_noOp hd))
    · exact .cons (fetchCycle_ok hw) (.cons (decodeCycle_instr hd) (settles_phaseOf (s := s.advance w) hx))

end Sys2Proof
end

section
/-! PROOFS. Control transfer (41_control_flow.md R140 to R147, R149): CALL and RET on the stack, the jumps, and the skips on
registers. -/

namespace Sys2Proof

open Sys2Proof.Machine

/-! ### CALL and RET (R140, R142) -/

section
variable {s : State} (nnn : Addr)

/-- CALL with room on the stack. -/
theorem exec_callAddr_of_room (h : s.sp.val < 16) :
    exec (.callAddr nnn) s = .next { s with
      stack := s.stack.set s.sp.val s.pc, sp := ⟨s.sp.val + 1, by omega⟩, pc := zextAddr nnn } := by
  rw [exec_callAddr_eq, State.push_ok h]
  rfl

theorem exec_callAddr_of_full (h : s.sp.val = 16) :
    exec (.callAddr nnn) s = .next (haltedWith Fault.stackOverflow.code s) := by
  rw [exec_callAddr_eq, State.push_full h]
  rfl

/-- RET with an entry on the stack. -/
theorem exec_ret_of_entry (h : 0 < s.sp.val) :
    exec .ret s = .next { s with
      sp := ⟨s.sp.val - 1, by omega⟩, pc := s.stack[s.sp.val - 1]'(by omega) } := by
  rw [exec_ret_eq, State.pop_ok h]
  rfl

theorem exec_ret_of_empty (h : s.sp.val = 0) :
    exec .ret s = .next (haltedWith Fault.stackUnderflow.code s) := by
  rw [exec_ret_eq, State.pop_empty h]
  rfl

end

@[simp] theorem zextAddr_toNat (a : Addr) : (zextAddr a).toNat = a.toNat :=
  BitVec.toNat_setWidth_of_le (by decide)

@[simp] theorem zextByte_toNat (b : Byte) : (zextByte b).toNat = b.toNat :=
  BitVec.toNat_setWidth_of_le (by decide)

/-- Settles O14. The push writes the one entry SP names. -/
theorem callPushesReturnAddress : Obligations.CallPushesReturnAddress := by
  unfold Obligations.CallPushesReturnAddress
  intro s nnn
  refine ⟨fun h => ⟨_, exec_callAddr_of_room nnn h, ?_, rfl, zextAddr_toNat nnn, rfl, fun _ => rfl, ?_⟩,
    exec_callAddr_of_full nnn⟩
  · exact Vector.getElem_set_self h
  · exact fun j hj hne => Vector.getElem_set_ne h hj hne.symm

/-- Settles O15. The pop writes no entry. -/
theorem retPopsReturnAddress : Obligations.RetPopsReturnAddress := by
  unfold Obligations.RetPopsReturnAddress
  intro s
  exact ⟨fun h => ⟨_, exec_ret_of_entry h, rfl, rfl, rfl, rfl, fun _ => rfl, fun _ _ _ => rfl⟩, exec_ret_of_empty⟩

/-- Settles O16. The CALL leaves SP above 0, so the RET pops, and the entry it pops is the one the CALL pushed. -/
theorem retUndoesCall : Obligations.RetUndoesCall := by
  unfold Obligations.RetUndoesCall
  intro s t nnn pc opc hroom hcall
  rw [exec_callAddr_of_room nnn hroom] at hcall
  cases hcall
  have hentry : 0 < s.sp.val + 1 := Nat.succ_pos _
  exact ⟨_, exec_ret_of_entry hentry, Vector.getElem_set_self hroom, rfl, rfl, rfl⟩

/-! ### Jumps and skips (R141, R143 to R147) -/

section
variable (s : State)

theorem onlyPc_setPc (a : Word) : OnlyPc s (s.setPc a) := ⟨rfl, fun _ => rfl⟩

theorem onlyPc_skipIf (c : Bool) : OnlyPc s (s.skipIf c) := by
  cases c
  case false => exact onlyPc_setPc s s.pc
  case true => exact onlyPc_setPc s (s.pc + 2)

theorem skipIf_pc_toNat (c : Bool) :
    (s.skipIf c).pc.toNat = if c = true then (s.pc.toNat + 2) % 65536 else s.pc.toNat := by
  cases c
  case false => rfl
  case true => exact BitVec.toNat_add s.pc 2

/-- A skip whose Boolean test decides the comparison `p` on numbers. -/
theorem skipIf_spec {c : Bool} {p : Prop} [Decidable p] (hc : c = true ↔ p) :
    OnlyPc s (s.skipIf c) ∧ (s.skipIf c).pc.toNat = if p then (s.pc.toNat + 2) % 65536 else s.pc.toNat :=
  ⟨onlyPc_skipIf s c, (skipIf_pc_toNat s c).trans (if_congr hc rfl rfl)⟩

end

theorem beq_byte_iff (a b : Byte) : (a == b) = true ↔ a.toNat = b.toNat := beq_iff_eq.trans BitVec.toNat_inj.symm

theorem bne_byte_iff (a b : Byte) : (a != b) = true ↔ a.toNat ≠ b.toNat := bne_iff_ne.trans BitVec.toNat_ne_iff_ne.symm

/-- Settles O13. The sum of V0 and NNN is at most 0xFF + 0xFFF, so the addition does not wrap. -/
theorem jumpsSetPc : Obligations.JumpsSetPc := by
  unfold Obligations.JumpsSetPc
  intro s nnn
  have hsum : (zextByte (s.reg 0) + zextAddr nnn).toNat = (s.reg 0).toNat + nnn.toNat := by
    rw [BitVec.toNat_add, zextByte_toNat, zextAddr_toNat]
    omega
  exact ⟨⟨_, rfl, zextAddr_toNat nnn, onlyPc_setPc s _⟩, ⟨_, rfl, hsum, onlyPc_setPc s _⟩⟩

/-- Settles O17. Each test is a Boolean equality of bytes, and bytes are equal exactly when their values are. -/
theorem registerSkips : Obligations.RegisterSkips := by
  unfold Obligations.RegisterSkips
  intro s x y nn
  exact ⟨⟨_, rfl, skipIf_spec s (beq_byte_iff (s.reg x) nn)⟩, ⟨_, rfl, skipIf_spec s (bne_byte_iff (s.reg x) nn)⟩,
    ⟨_, rfl, skipIf_spec s (beq_byte_iff (s.reg x) (s.reg y))⟩,
    ⟨_, rfl, skipIf_spec s (bne_byte_iff (s.reg x) (s.reg y))⟩⟩

end Sys2Proof
end

section
/-! PROOFS. Register loads and the ALU (42_alu.md R161 to R173, R180): the plain writes of V[X], the writes of the flag and
then V[X] under both operand orders, and RND. -/

namespace Sys2Proof

open Sys2Proof.Machine

/-! ### The plain writes of V[X] (R161 to R166) -/

section
variable {s u : State} (x : Reg) (b : Byte)

/-- A write of V[X] after operations that keep the registers. -/
theorem regsKeptBut_setReg (h : ∀ r, u.reg r = s.reg r) : RegsKeptBut [x] s (u.setReg x b) := by
  intro r hr
  have hne : r ≠ x := fun e => hr (List.mem_singleton.2 e)
  rw [State.reg_setReg, if_neg hne, h]

theorem onlyRegs_setReg : OnlyRegs [x] s (s.setReg x b) := ⟨rfl, regsKeptBut_setReg x b fun _ => rfl, fun _ => rfl⟩

theorem reg_setReg_self : (s.setReg x b).reg x = b := by rw [State.reg_setReg, if_pos rfl]

end

/-- Settles O19. Each of the five instructions is one write of V[X], and a bitwise operation acts on each bit alone. -/
theorem loadAndLogicResults : Obligations.LoadAndLogicResults := by
  unfold Obligations.LoadAndLogicResults
  intro s x y nn
  refine ⟨⟨_, rfl, reg_setReg_self x _, onlyRegs_setReg x _⟩, ⟨_, rfl, reg_setReg_self x _, onlyRegs_setReg x _⟩,
    ⟨_, rfl, onlyRegs_setReg x _, fun k _ => ?_⟩, ⟨_, rfl, onlyRegs_setReg x _, fun k _ => ?_⟩,
    ⟨_, rfl, onlyRegs_setReg x _, fun k _ => ?_⟩⟩
  · rw [reg_setReg_self, BitVec.getLsbD_or]
  · rw [reg_setReg_self, BitVec.getLsbD_and]
  · rw [reg_setReg_self, BitVec.getLsbD_xor]

/-- Settles O20. ADD Vx, byte is one write of V[X], of the sum in 8 bits. -/
theorem addImmediateResult : Obligations.AddImmediateResult := by
  unfold Obligations.AddImmediateResult
  intro s x nn
  refine ⟨_, rfl, ?_, onlyRegs_setReg x _⟩
  rw [reg_setReg_self, BitVec.toNat_add]

/-! ### The flag bytes as comparisons of numbers (R160, R169, R171) -/

section
variable (a b : Byte)

theorem flagByte_of_iff {f : Bool} {p : Prop} [Decidable p] (h : f = true ↔ p) : flagByte f = if p then 1 else 0 :=
  if_congr h rfl rfl

theorem flagByte_carryOut : flagByte (carryOut a b) = if a.toNat + b.toNat > 255 then 1 else 0 :=
  flagByte_of_iff decide_eq_true_iff

theorem flagByte_noBorrow : flagByte (noBorrow a b) = if a.toNat ≥ b.toNat then 1 else 0 :=
  flagByte_of_iff decide_eq_true_iff

theorem flagByte_lowBitOut : flagByte (lowBitOut b) = if b.toNat % 2 = 1 then 1 else 0 := by
  refine flagByte_of_iff ?_
  rw [lowBitOut, BitVec.getLsbD, Nat.testBit_zero, decide_eq_true_iff]

theorem flagByte_highBitOut : flagByte (highBitOut b) = if b.toNat ≥ 128 then 1 else 0 := by
  refine flagByte_of_iff ?_
  have hlt : b.toNat < 256 := b.isLt
  rw [highBitOut, BitVec.getLsbD, Nat.testBit_eq_decide_div_mod_eq, decide_eq_true_iff]
  omega

/-- The difference in 8 bits is the difference of the values modulo 256. -/
theorem sub_byte_toNat : ((a - b).toNat : Int) = ((a.toNat : Int) - b.toNat) % 256 := by
  have hb : b.toNat < 256 := b.isLt
  rw [BitVec.toNat_sub]
  omega

theorem shiftRight_byte_toNat : (b >>> 1).toNat = b.toNat / 2 := BitVec.toNat_ushiftRight b 1

theorem shiftLeft_byte_toNat : (b <<< 1).toNat = b.toNat * 2 % 256 := by
  rw [BitVec.toNat_shiftLeft, Nat.shiftLeft_eq]

end

/-! ### The flag, then V[X] (R167 to R171, R173) -/

section
variable {s : State} {f : Bool} {x : Reg} {g : State → Byte}

theorem onlyRegs_flagThenReg : OnlyRegs [x, regVF] s (s.flagThenReg f x g) := by
  refine ⟨rfl, fun r hr => ?_, fun _ => rfl⟩
  have hx : r ≠ x := by rintro rfl; exact hr List.mem_cons_self
  have hVF : r ≠ regVF := by rintro rfl; exact hr (List.mem_cons_of_mem _ List.mem_cons_self)
  rw [State.flagThenReg, State.reg_setReg, if_neg hx, State.reg_setFlag, if_neg hVF]

theorem reg_flagThenReg_self : (s.flagThenReg f x g).reg x = g (s.operandState f) := reg_setReg_self x _

theorem reg_flagThenReg_flag (hx : x ≠ regVF) : (s.flagThenReg f x g).reg regVF = flagByte f := by
  rw [State.flagThenReg, State.reg_setReg, if_neg hx.symm, State.reg_setFlag, if_pos rfl]

/-- A flag-writing instruction that writes the flag `c` and in V[X] a result read as the value `v`. -/
theorem flagThenReg_spec {α : Type} {c : Byte} (val : Byte → α) {v : α} (hc : flagByte f = c)
    (hv : val (g (s.operandState f)) = v) :
    OnlyRegs [x, regVF] s (s.flagThenReg f x g) ∧
      val ((s.flagThenReg f x g).reg x) = v ∧ (x ≠ regVF → (s.flagThenReg f x g).reg regVF = c) :=
  ⟨onlyRegs_flagThenReg, (congrArg val reg_flagThenReg_self).trans hv, fun hx => (reg_flagThenReg_flag hx).trans hc⟩

end

/-- Settles O21. The sum is the 8-bit sum of the operands as the second assignment sees them. -/
theorem addWithCarryResult : Obligations.AddWithCarryResult := by
  unfold Obligations.AddWithCarryResult
  intro s x y
  refine ⟨_, rfl, flagThenReg_spec BitVec.toNat (flagByte_carryOut (s.reg x) (s.reg y)) ?_⟩
  rw [BitVec.toNat_add, State.reg_operandState, State.reg_operandState, flagByte_carryOut]

/-- The difference of two registers as the second assignment sees them (R168, R170). -/
theorem sub_operandState_toNat (s : State) (a b : Reg) {f : Bool} {c : Byte} (hc : flagByte f = c) :
    (((s.operandState f).reg a - (s.operandState f).reg b).toNat : Int) =
      (((operandSeen s c a).toNat : Int) - (operandSeen s c b).toNat) % 256 := by
  rw [sub_byte_toNat, State.reg_operandState, State.reg_operandState, hc]

/-- Settles O22. SUBN is SUB with the operands exchanged. -/
theorem subtractResults : Obligations.SubtractResults := by
  unfold Obligations.SubtractResults
  intro s x y
  have hsub := flagByte_noBorrow (s.reg x) (s.reg y)
  have hsubn := flagByte_noBorrow (s.reg y) (s.reg x)
  exact ⟨⟨_, rfl, flagThenReg_spec (fun b => (b.toNat : Int)) hsub (sub_operandState_toNat s x y hsub)⟩,
    ⟨_, rfl, flagThenReg_spec (fun b => (b.toNat : Int)) hsubn (sub_operandState_toNat s y x hsubn)⟩⟩

/-- Settles O23. The source of both shifts is V[Y], for the flag and for the result. -/
theorem shiftResults : Obligations.ShiftResults := by
  unfold Obligations.ShiftResults
  intro s x y
  refine ⟨⟨_, rfl, flagThenReg_spec BitVec.toNat (flagByte_lowBitOut (s.reg y)) ?_⟩,
    ⟨_, rfl, flagThenReg_spec BitVec.toNat (flagByte_highBitOut (s.reg y)) ?_⟩⟩
  · rw [shiftRight_byte_toNat, State.reg_operandState, flagByte_lowBitOut]
  · rw [shiftLeft_byte_toNat, State.reg_operandState, flagByte_highBitOut]

/-! ### The operand order (R173) -/

section
variable {s : State} {o : OperandOrder} {f : Bool}

/-- A register other than VF is read alike by the second assignment under every operand order. -/
theorem reg_operandState_withOrder {r : Reg} (hr : r ≠ regVF) :
    ((withOrder o s).operandState f).reg r = (s.operandState f).reg r := by
  rw [State.reg_operandState, State.reg_operandState, operandSeen, operandSeen, if_neg fun ⟨_, e⟩ => hr e,
    if_neg fun ⟨_, e⟩ => hr e]
  rfl

theorem i_operandState_withOrder : ((withOrder o s).operandState f).i = (s.operandState f).i := by
  rw [State.i_operandState, State.i_operandState]
  rfl

/-- A flag-writing instruction whose result reads the same under the other operand order. -/
theorem flagThenReg_withOrder {x : Reg} {g : State → Byte}
    (hg : g ((withOrder o s).operandState f) = g (s.operandState f)) :
    (withOrder o s).flagThenReg f x g = withOrder o (s.flagThenReg f x g) := by
  rw [State.flagThenReg, hg]
  rfl

theorem flagThenI_withOrder {g : State → Word}
    (hg : g ((withOrder o s).operandState f) = g (s.operandState f)) :
    (withOrder o s).flagThenI f g = withOrder o (s.flagThenI f g) := by
  rw [State.flagThenI, hg]
  rfl

end

/-- Settles O24. The operand order decides only which VF the second assignment reads, and it reads V[X], V[Y] and I. -/
theorem operandOrdersAgreeWithoutVF : Obligations.OperandOrdersAgreeWithoutVF := by
  unfold Obligations.OperandOrdersAgreeWithoutVF
  intro s x y o hx hy i hi
  have hX (f : Bool) := reg_operandState_withOrder (s := s) (o := o) (f := f) hx
  have hY (f : Bool) := reg_operandState_withOrder (s := s) (o := o) (f := f) hy
  simp only [List.mem_cons, List.not_mem_nil, or_false] at hi
  obtain rfl | rfl | rfl | rfl | rfl | rfl := hi
  pick_goal 6
  · exact ⟨_, rfl, congrArg Host.Outcome.next (flagThenI_withOrder (by rw [hX, i_operandState_withOrder]))⟩
  all_goals exact ⟨_, rfl, congrArg Host.Outcome.next (flagThenReg_withOrder (by simp only [hX, hY]))⟩

/-! ### RND (R172, R180) -/

section
variable {s : State}

theorem rand_presented {r : Byte} (h : s.randIn = some r) :
    s.randValue = r ∧ s.afterRand = { s with randIn := none } := by
  simp only [State.randValue, State.afterRand, h, and_self]

theorem rand_free (h : s.randIn = none) :
    s.randValue = Config.rand s.draws ∧ s.afterRand = { s with draws := s.draws + 1 } := by
  simp only [State.randValue, State.afterRand, h, and_self]

theorem afterRand_randIn : s.afterRand.randIn = none := by
  cases h : s.randIn with
  | some r => rw [(rand_presented h).2]
  | none => rw [(rand_free h).2, h]

theorem onlyRegsAndDraws_rnd (x : Reg) (b : Byte) : OnlyRegsAndDraws [x] s (s.afterRand.setReg x b) := by
  unfold State.afterRand
  split <;> exact ⟨rfl, regsKeptBut_setReg x b fun _ => rfl, fun _ => rfl⟩

end

/-- Settles O25. The byte presented and the free value are the two cases of taking RAND; the mask acts on each bit alone. -/
theorem randomByteMasked : Obligations.RandomByteMasked := by
  unfold Obligations.RandomByteMasked
  intro s x nn
  refine ⟨_, rfl, onlyRegsAndDraws_rnd x _, afterRand_randIn, fun k hk => ?_, fun r hr => ?_, fun hr => ?_⟩
  · rw [reg_setReg_self, BitVec.getLsbD_and, hk, Bool.and_false]
  · obtain ⟨hvalue, hafter⟩ := rand_presented hr
    rw [reg_setReg_self, hvalue, State.setReg_draws, hafter]
    exact ⟨rfl, rfl⟩
  · obtain ⟨hvalue, hafter⟩ := rand_free hr
    rw [reg_setReg_self, hvalue, State.setReg_draws, hafter]
    exact ⟨rfl, rfl⟩

end Sys2Proof
end

section
/-! PROOFS. The index register, loads and stores (43_memory_index.md R190 to R195): the writes of I, the halts of a store or
a load through I, what it leaves when it completes, and that a load undoes a store. -/

namespace Sys2Proof

open Sys2Proof.Machine

/-! ### The writes of I (R190 to R192) -/

section
variable {s : State}

theorem onlyIndex_setI (a : Word) : OnlyIndex s (s.setI a) := ⟨rfl, fun _ => rfl⟩

theorem zextByte_mul_five_toNat (b : Byte) : (zextByte b * 5).toNat = b.toNat * 5 := by
  have hb : b.toNat < 256 := b.isLt
  have h5 : (5 : Word).toNat = 5 := rfl
  rw [BitVec.toNat_mul, zextByte_toNat, h5]
  omega

theorem flagByte_indexOverflow (i : Word) (b : Byte) :
    flagByte (indexOverflow i b) = if i.toNat + b.toNat > 0xFFF then 1 else 0 :=
  flagByte_of_iff decide_eq_true_iff

variable {f : Bool} {g : State → Word}

theorem onlyIndexAndRegs_flagThenI : OnlyIndexAndRegs [regVF] s (s.flagThenI f g) :=
  ⟨rfl, regsKeptBut_setReg regVF _ fun _ => rfl, fun _ => rfl⟩

theorem reg_flagThenI_flag : (s.flagThenI f g).reg regVF = flagByte f := reg_setReg_self regVF _

theorem i_flagThenI : (s.flagThenI f g).i = g (s.operandState f) := rfl

end

/-- Settles O26. Both instructions are one write of I; 5 V[X] is at most 5 · 255, so the product does not wrap. -/
theorem loadIndexResults : Obligations.LoadIndexResults := by
  unfold Obligations.LoadIndexResults
  intro s nnn x
  exact ⟨⟨_, rfl, zextAddr_toNat nnn, onlyIndex_setI _⟩,
    ⟨_, rfl, zextByte_mul_five_toNat (s.reg x), onlyIndex_setI _⟩⟩

/-- Settles O27. The flag compares the operands of the start; the sum adds to I the register as the second assignment
sees it. -/
theorem addToIndexResult : Obligations.AddToIndexResult := by
  unfold Obligations.AddToIndexResult
  intro s x
  have hflag := flagByte_indexOverflow s.i (s.reg x)
  refine ⟨_, rfl, onlyIndexAndRegs_flagThenI, reg_flagThenI_flag.trans hflag, ?_⟩
  rw [i_flagThenI, BitVec.toNat_add, zextByte_toNat, State.i_operandState, State.reg_operandState, hflag]

/-! ### The halts of an access through I (20_memory.md R67, R68; 60_exceptions.md R252) -/

/-- An instruction whose decoded fault is `c` halts with its cause. -/
theorem exec_of_faultOf_some {i : Instr} {s : State} {c : Fault} (h : faultOf i s = some c) :
    exec i s = .next (haltedWith c.code s) := by
  obtain ⟨t, ht⟩ := exec_next i s
  obtain ⟨hn, -⟩ | ⟨d, hd, rfl⟩ := exec_faultDecides ht
  · cases h.symm.trans hn
  · cases h.symm.trans hd
    exact ht

section
variable {s : State} {n : Nat}

theorem readFault_of_not_addressesOk (h : ¬ AddressesOk s n) : s.readFault n = some .addressRange := by
  cases hf : s.readFault n with
  | none => exact absurd (addresses_of_readFault_none s hf) h
  | some c => rw [(addresses_of_readFault_some s hf).1]

theorem readFault_of_addressesOk (h : AddressesOk s n) : s.readFault n = none := by
  cases hf : s.readFault n with
  | none => rfl
  | some c =>
    obtain ⟨-, hp, hn, ha⟩ := addresses_of_readFault_some s hf
    obtain hw | h0 | hle := h
    · cases hp.symm.trans hw
    · omega
    · exact absurd ha (Nat.not_lt.2 hle)

theorem writeFault_of_not_addressesOk (h : ¬ AddressesOk s n) : s.writeFault n = some .addressRange := by
  rw [State.writeFault, readFault_of_not_addressesOk h]

theorem writeFault_of_not_reservedOk (ha : AddressesOk s n) (hr : ¬ ReservedOk s n) :
    s.writeFault n = some .reservedWrite := by
  obtain ⟨hfault, hlow⟩ := not_or.1 hr
  obtain ⟨k, hk⟩ := not_forall.1 hlow
  obtain ⟨hkn, hlt⟩ := Classical.not_imp.1 hk
  rw [State.writeFault, readFault_of_addressesOk ha]
  exact if_pos ⟨not_not.1 hfault, k, hkn, Nat.lt_of_not_le hlt⟩

/-- The two halts of an instruction whose decoded fault is that of an `n`-byte store: ADDRESS_RANGE comes first. -/
theorem store_halts {i : Instr} (hi : faultOf i s = s.writeFault n) :
    (¬ AddressesOk s n → exec i s = .next (haltedWith 4 s)) ∧
      (AddressesOk s n → ¬ ReservedOk s n → exec i s = .next (haltedWith 3 s)) :=
  ⟨fun ha => exec_of_faultOf_some (c := .addressRange) (hi.trans (writeFault_of_not_addressesOk ha)),
    fun ha hr => exec_of_faultOf_some (c := .reservedWrite) (hi.trans (writeFault_of_not_reservedOk ha hr))⟩

end

/-! ### Stores (R193, R194) -/

/-- Settles O28. The halts are the decoded faults of a 3-byte store. -/
theorem bcdStored : Obligations.BcdStored := by
  unfold Obligations.BcdStored
  intro s x hm
  exact ⟨exec_ldBVx_stored hm, store_halts rfl⟩

theorem bumpI_i_toNat (s : State) (x : Reg) : (s.bumpI x).i.toNat = (s.i.toNat + x.val + 1) % 65536 := by
  have hx : x.val < 16 := x.isLt
  rw [State.bumpI, State.setI_i, BitVec.toNat_add, BitVec.toNat_ofNat]
  omega

/-- The post-increment of a state that differs from `s` in memory alone. -/
theorem bumpI_of_keeps {s u : State} (x : Reg) (h : { u with mem := s.mem } = s) :
    { u.bumpI x with mem := s.mem, i := s.i } = s ∧ (u.bumpI x).i.toNat = (s.i.toNat + x.val + 1) % 65536 := by
  have hi : u.i = s.i := (congrArg State.i h :)
  exact ⟨congrArg (fun v : State => { v with i := s.i }) h, by rw [bumpI_i_toNat, hi]⟩

/-- Settles O29. The post-increment follows the run of writes, which keeps I. -/
theorem registersStored : Obligations.RegistersStored := by
  unfold Obligations.RegistersStored
  intro s x hm
  refine ⟨fun ha hr => ?_, store_halts rfl⟩
  obtain ⟨u, hu, hkeep, hstored⟩ := exec_ldMemVx_stored hm ha hr
  obtain ⟨hframe, hindex⟩ := bumpI_of_keeps x hkeep
  exact ⟨_, hu, hframe, hindex, hstored⟩

/-! ### Loads (R195) -/

/-- The `n` bytes of memory at I, I + 1, … -/
def bytesAtIndex (s : State) (n : Nat) : List Byte := (List.range n).map fun k => s.byteAt (indexByte s k)

section
variable {s : State} {x k : Reg}

/-- FX65 that does not fault loads the bytes at I and advances I. -/
theorem exec_ldVxMem_loaded (h : AddressesOk s (x.val + 1)) :
    exec (.ldVxMem x) s = .next ((s.setRegs (bytesAtIndex s (x.val + 1))).bumpI x) := by
  have hread : s.readBytes (s.indexAddr 0) (x.val + 1) = .ok (bytesAtIndex s (x.val + 1)) := State.readBytes_ok h
  rw [exec_ldVxMem_eq, hread]
  rfl

/-- What FX65 leaves unchanged, whatever bytes it loads. -/
theorem onlyIndexAndRegs_load {xs : List Reg} {bs : List Byte} (h : RegsKeptBut xs s (s.setRegs bs)) :
    OnlyIndexAndRegs xs s ((s.setRegs bs).bumpI x) :=
  ⟨congrArg (fun u : State => { u with i := s.i }) (s.setRegs_keeps bs), h, s.byteAt_setRegs bs⟩

theorem reg_setRegs_bytesAtIndex_of_le (h : k ≤ x) :
    (s.setRegs (bytesAtIndex s (x.val + 1))).reg k = s.byteAt (indexByte s k.val) := by
  have hlt : k.val < x.val + 1 := Nat.lt_succ_of_le h
  rw [State.reg_setRegs, bytesAtIndex, List.getD_eq_getElem _ _ (by simpa using hlt), List.getElem_map,
    List.getElem_range]

theorem reg_setRegs_bytesAtIndex_of_not_le (h : ¬ k ≤ x) :
    (s.setRegs (bytesAtIndex s (x.val + 1))).reg k = s.reg k := by
  have hge : x.val + 1 ≤ k.val := Nat.lt_of_not_le h
  rw [State.reg_setRegs, bytesAtIndex, List.getD_eq_default _ _ (by simpa using hge)]

end

/-- Settles O30. The registers above X are beyond the bytes loaded. -/
theorem registersLoaded : Obligations.RegistersLoaded := by
  unfold Obligations.RegistersLoaded
  intro s x
  refine ⟨fun ha => ⟨_, exec_ldVxMem_loaded ha, onlyIndexAndRegs_load fun k hk => ?_,
    fun k hk => reg_setRegs_bytesAtIndex_of_le hk, bumpI_i_toNat _ x⟩,
    fun ha => exec_of_faultOf_some (c := .addressRange) (readFault_of_not_addressesOk ha)⟩
  have hgt : ¬ k ≤ x := fun hle => hk (List.mem_filter.2 ⟨List.mem_finRange k, decide_eq_true hle⟩)
  exact reg_setRegs_bytesAtIndex_of_not_le hgt

/-! ### A load after a store (R194, R195; 90_conflicts.md C8) -/

/-- A register stored outside the reserved region reads back from its address. -/
theorem byteAt_of_regsUpTo_stored {s t : State} {x k : Reg} (h : StoredAtIndex (s.regsUpTo x) s t) (hk : k ≤ x)
    (hge : 0x200 ≤ indexByte s k.val) : t.byteAt (indexByte s k.val) = s.reg k := by
  have hlt : k.val < (s.regsUpTo x).length := by
    rw [length_regsUpTo]
    exact Nat.lt_succ_of_le hk
  calc t.byteAt (indexByte s k.val) = (s.regsUpTo x)[k.val] := h.byteAt_written hlt (.inl hge)
    _ = s.reg (Fin.ofNat 16 k.val) := regsUpTo_getElem hlt
    _ = s.reg k := congrArg s.reg (Fin.cast_val_eq_self k)

/-- Settles O31. With I set back the load addresses the bytes the store wrote, and the registers, PC and OPC it starts
from do not enter. -/
theorem storeThenLoadRestoresRegisters : Obligations.StoreThenLoadRestoresRegisters := by
  unfold Obligations.StoreThenLoadRestoresRegisters
  intro s t x v pc opc hm ha hge h
  obtain ⟨u, hu, -, hstored⟩ := exec_ldMemVx_stored hm ha (.inr fun k hk => hge k (Nat.le_of_lt_succ hk))
  have hparams : t.params = s.params := exec_params h
  cases hu.symm.trans h
  have hload : AddressesOk { u.bumpI x with v := v, i := s.i, pc := pc, opc := opc } (x.val + 1) :=
    ha.imp_left (congrArg Params.addrPolicy hparams).trans
  refine ⟨_, exec_ldVxMem_loaded hload, fun k hk => ?_, bumpI_i_toNat _ x⟩
  exact (reg_setRegs_bytesAtIndex_of_le hk).trans (byteAt_of_regsUpTo_stored hstored hk (hge k.val hk))

end Sys2Proof
end

section
/-! PROOFS. The framebuffer (44_display.md R211 to R216): the clear, the draw as flips at the distinct points the sprite
covers, drawing twice, and which steps write DIRTY. -/

namespace Sys2Proof

open Sys2Proof.Machine

/-! ### The clear (R211) -/

/-- Settles O34. The clear writes the framebuffer and DIRTY and nothing else. -/
theorem clearBlanksTheScreen : Obligations.ClearBlanksTheScreen := by
  unfold Obligations.ClearBlanksTheScreen
  intro s
  exact ⟨_, rfl, Frame.pixel_blank, rfl, rfl, fun _ _ => rfl, fun _ => rfl⟩

/-! ### The points of a sprite are distinct (R214) -/

section
variable {e : DrawEdge} {x0 : Fin 64} {y0 : Fin 32}

/-- A column is below the width and a row below the height, so two sprite pixels land on one point only if they are one
pixel, also where the coordinates wrap. -/
theorem landing_injective {c c' r r' : Nat} {p : Fin 64 × Fin 32} (hc : c < 64) (hc' : c' < 64) (hr : r < 32)
    (hr' : r' < 32) (h : landing e x0 y0 c r = some p) (h' : landing e x0 y0 c' r' = some p) :
    c = c' ∧ r = r' := by
  obtain ⟨px, py⟩ := p
  have hp := landing_eq_some.1 h
  have hp' := landing_eq_some.1 h'
  cases e
  case wrap => dsimp only at hp hp'; omega
  case clip => dsimp only at hp hp'; omega

theorem nodup_rowPoints (row : Byte) {r : Nat} (hr : r < 32) : (rowPoints e x0 y0 row r).Nodup := by
  unfold rowPoints
  rw [List.Nodup, List.pairwise_filterMap]
  refine List.nodup_range.imp_of_mem fun {c c'} hc hc' hne p hp q hq hpq => hne ?_
  have hc8 := List.mem_range.1 hc
  have hc8' := List.mem_range.1 hc'
  simp only [Option.ite_none_right_eq_some] at hp hq
  rw [← hpq] at hq
  exact (landing_injective (by omega) (by omega) hr hr hp.2 hq.2).1

/-- No two set bits of a sprite that is no higher than the screen land on the same point. -/
theorem nodup_spritePoints {rows : List Byte} {r : Nat} (hr : r + rows.length ≤ 32) :
    (spritePoints e x0 y0 rows r).Nodup := by
  induction rows generalizing r with
  | nil => exact List.nodup_nil
  | cons row rows ih =>
    rw [List.length_cons] at hr
    refine List.Nodup.append (nodup_rowPoints row (by omega)) (ih (by omega)) fun p hp hp' => ?_
    obtain ⟨c, hc, -, hl⟩ := mem_rowPoints.1 hp
    obtain ⟨j, hj, c', hc', -, hl'⟩ := mem_spritePoints.1 hp'
    have hrow := (landing_injective (by omega) (by omega) (by omega) (by omega) hl hl').2
    omega

end

/-! ### What a draw does (R212 to R216) -/

/-- The points that the `n`-row sprite at I flips when it is drawn at (V[x], V[y]). -/
def drawnPoints (s : State) (x y : Reg) (n : Nat) : List (Fin 64 × Fin 32) :=
  spritePoints s.params.drawEdge (startColumn (s.reg x)) (startRow (s.reg y)) (bytesAtIndex s n) 0

/-- The framebuffer and the collision bit after those flips. -/
def drawnFrame (s : State) (x y : Reg) (n : Nat) : Frame × Bool :=
  (drawnPoints s x y n).foldl flipPoint (s.fb, false)

section
variable {s : State} {x y : Reg} {n : Nat}

theorem length_bytesAtIndex : (bytesAtIndex s n).length = n := by simp [bytesAtIndex]

theorem mem_drawnPoints {px : Fin 64} {py : Fin 32} : (px, py) ∈ drawnPoints s x y n ↔ spriteCovers s x y n px py := by
  have hbyte : ∀ j, ∀ h : j < (bytesAtIndex s n).length, (bytesAtIndex s n)[j] = s.byteAt (indexByte s j) := by
    simp [bytesAtIndex]
  unfold drawnPoints spriteCovers
  rw [mem_spritePoints]
  cases s.params.drawEdge <;>
    simp [landing_eq_some, hbyte, length_bytesAtIndex, spriteBit, startColumn, startRow]

theorem nodup_drawnPoints (hn : n ≤ 32) : (drawnPoints s x y n).Nodup :=
  nodup_spritePoints (by rw [length_bytesAtIndex]; omega)

/-- A draw flips exactly the pixels the sprite covers. -/
theorem pixel_drawnFrame_ne_iff (hn : n ≤ 32) (px : Fin 64) (py : Fin 32) :
    Frame.pixel (drawnFrame s x y n).1 px py ≠ s.pixel px py ↔ spriteCovers s x y n px py := by
  rw [drawnFrame, (foldl_flipPoint (nodup_drawnPoints hn)).1, ← mem_drawnPoints]
  change (s.pixel px py ^^ decide _) ≠ s.pixel px py ↔ _
  by_cases h : (px, py) ∈ drawnPoints s x y n
  · simp [h]
  · simp [h]

/-- The collision bit: a covered pixel was set (R215). -/
theorem drawnFrame_hit_iff (hn : n ≤ 32) :
    (drawnFrame s x y n).2 = true ↔ ∃ px py, spriteCovers s x y n px py ∧ s.pixel px py = true := by
  rw [drawnFrame, (foldl_flipPoint (nodup_drawnPoints hn)).2, Bool.false_or, List.any_eq_true, Prod.exists]
  simp only [mem_drawnPoints]
  rfl

end

section
variable {s : State} {acc : Frame × Bool}

theorem finishDraw_fb : (s.finishDraw acc).fb = acc.1 := by
  unfold State.finishDraw State.setCollision
  split <;> rfl

/-- What the end of a draw leaves unchanged. -/
theorem onlyDisplayAndRegs_finishDraw : OnlyDisplayAndRegs [regVF] s (s.finishDraw acc) := by
  unfold State.finishDraw State.setCollision
  split
  · exact ⟨rfl, regsKeptBut_setReg regVF _ fun _ => rfl, fun _ => rfl⟩
  · exact ⟨rfl, fun _ _ => rfl, fun _ => rfl⟩

theorem finishDraw_flag_of_hit (h : acc.2 = true) : (s.finishDraw acc).reg regVF = 1 := by
  simp [State.finishDraw, State.setCollision, h, flagByte]

theorem finishDraw_flag_of_no_hit (h : acc.2 = false) :
    (s.finishDraw acc).reg regVF = if s.params.drawVfClear then 0 else s.reg regVF := by
  cases hc : s.params.drawVfClear <;> simp [State.finishDraw, State.setCollision, h, hc, flagByte]

end

/-- What a DXYN that does not fault does, from the state `s` it starts from to the state `t` it leaves. -/
structure SpriteDrawn (s t : State) (x y : Reg) (n : Nat) : Prop where
  flips : ∀ px py, t.pixel px py ≠ s.pixel px py ↔ spriteCovers s x y n px py
  collides : (∃ px py, spriteCovers s x y n px py ∧ s.pixel px py = true) → t.reg regVF = 1
  misses : (∀ px py, spriteCovers s x y n px py → s.pixel px py = false) →
    t.reg regVF = if s.params.drawVfClear then 0 else s.reg regVF
  dirty : t.dirty = true
  frame : OnlyDisplayAndRegs [regVF] s t

section
variable {s : State} {x y : Reg}

theorem drawSprite_bytesAtIndex (n : Nat) :
    s.drawSprite x y (bytesAtIndex s n) = s.finishDraw (drawnFrame s x y n) := by
  rw [State.drawSprite, drawRows_eq]
  rfl

theorem spriteDrawn_finishDraw {n : Nat} (hn : n ≤ 32) : SpriteDrawn s (s.finishDraw (drawnFrame s x y n)) x y n where
  flips px py := by rw [State.pixel, finishDraw_fb]; exact pixel_drawnFrame_ne_iff hn px py
  collides h := finishDraw_flag_of_hit ((drawnFrame_hit_iff hn).2 h)
  misses h := by
    refine finishDraw_flag_of_no_hit (Bool.eq_false_iff.2 fun hhit => ?_)
    obtain ⟨px, py, hcov, hset⟩ := (drawnFrame_hit_iff hn).1 hhit
    cases (h px py hcov).symm.trans hset
  dirty := rfl
  frame := onlyDisplayAndRegs_finishDraw

/-- DXYN with its rows' addresses in range. -/
theorem exec_drwVxVyNibble_drawn {n : Nibble} (h : AddressesOk s n.toNat) :
    ∃ t, exec (.drwVxVyNibble x y n) s = .next t ∧ SpriteDrawn s t x y n.toNat := by
  have hread : s.readBytes (s.indexAddr 0) n.toNat = .ok (bytesAtIndex s n.toNat) := State.readBytes_ok h
  have hn : n.toNat < 16 := n.isLt
  refine ⟨_, ?_, spriteDrawn_finishDraw (by omega)⟩
  rw [exec_drwVxVyNibble_eq, hread, ← drawSprite_bytesAtIndex]
  rfl

end

/-- Settles O35. The flips are at distinct points, so each covered pixel flips once; the halt is the decoded fault of
reading the rows. -/
theorem drawFlipsCoveredPixels : Obligations.DrawFlipsCoveredPixels := by
  unfold Obligations.DrawFlipsCoveredPixels
  intro s x y n
  refine ⟨fun ha => ?_, fun ha => ?_, fun e x0 y0 c c' r r' hc hc' hr hr' hland heq => ?_⟩
  · obtain ⟨t, ht, flips, collides, misses, dirty, frame⟩ := exec_drwVxVyNibble_drawn ha
    exact ⟨t, ht, flips, collides, misses, dirty, frame⟩
  · exact exec_of_faultOf_some (c := .addressRange) (readFault_of_not_addressesOk ha)
  · obtain ⟨p, hp⟩ := Option.ne_none_iff_exists'.1 hland
    exact landing_injective (by omega) (by omega) (by omega) (by omega) hp (heq ▸ hp)

/-! ### Drawing twice (R212, R215) -/

theorem frame_ext_pixel {f g : Frame} (h : ∀ px py, Frame.pixel f px py = Frame.pixel g px py) : f = g :=
  Vector.ext fun py hy => Vector.ext fun px hx => h ⟨px, hx⟩ ⟨py, hy⟩

/-- A bit changed twice, or never, is as it was. -/
theorem eq_of_ne_iff_ne {a b c : Bool} (h : c ≠ b ↔ b ≠ a) : c = a := by
  revert a b c
  decide

namespace SpriteDrawn

section
variable {s t u : State} {x y : Reg} {n : Nat} (h : SpriteDrawn s t x y n)
include h

theorem params_eq : t.params = s.params := (congrArg State.params h.frame.1 :)

theorem i_eq : t.i = s.i := (congrArg State.i h.frame.1 :)

theorem reg_eq {r : Reg} (hr : r ≠ regVF) : t.reg r = s.reg r := h.frame.2.1 r (by simpa using hr)

theorem byteAt_eq (a : Nat) : t.byteAt a = s.byteAt a := h.frame.2.2 a

theorem addressesOk (ha : AddressesOk s n) : AddressesOk t n := by
  unfold AddressesOk
  rwa [h.params_eq, h.i_eq]

variable (hx : x ≠ regVF) (hy : y ≠ regVF)
include hx hy

/-- A draw at registers other than VF moves neither the sprite nor its place, so it covers the same pixels again. -/
theorem spriteCovers_iff (px : Fin 64) (py : Fin 32) :
    spriteCovers t x y n px py ↔ spriteCovers s x y n px py := by
  simp only [spriteCovers, indexByte, State.indexAddr, h.i_eq, h.params_eq, h.byteAt_eq, h.reg_eq hx, h.reg_eq hy]

variable (h' : SpriteDrawn t u x y n)
include h'

theorem fb_restored : u.fb = s.fb := by
  refine frame_ext_pixel fun px py => eq_of_ne_iff_ne (b := t.pixel px py) ?_
  calc u.pixel px py ≠ t.pixel px py ↔ spriteCovers t x y n px py := h'.flips px py
    _ ↔ spriteCovers s x y n px py := h.spriteCovers_iff hx hy px py
    _ ↔ t.pixel px py ≠ s.pixel px py := (h.flips px py).symm

/-- A covered pixel that was unset is set by the first draw, so the second collides with it. -/
theorem collides_again {px : Fin 64} {py : Fin 32} (hcov : spriteCovers s x y n px py)
    (hunset : s.pixel px py = false) : u.reg regVF = 1 := by
  have hset : t.pixel px py ≠ false := hunset ▸ (h.flips px py).2 hcov
  exact h'.collides ⟨px, py, (h.spriteCovers_iff hx hy px py).2 hcov, Bool.eq_true_of_not_eq_false hset⟩

end

end SpriteDrawn

/-- Settles O36. The second draw flips the same pixels as the first. -/
theorem drawingTwiceRestores : Obligations.DrawingTwiceRestores := by
  unfold Obligations.DrawingTwiceRestores
  intro s t x y n hx hy ha h
  obtain ⟨t', ht', first⟩ := exec_drwVxVyNibble_drawn (x := x) (y := y) ha
  cases ht'.symm.trans h
  obtain ⟨u, hu, second⟩ := exec_drwVxVyNibble_drawn (x := x) (y := y) (first.addressesOk ha)
  exact ⟨u, hu, first.fb_restored hx hy second, fun ⟨_, _, hcov, hunset⟩ =>
    first.collides_again hx hy second hcov hunset⟩

/-! ### Which steps write DIRTY (R216; 10_state.md R37) -/

/-- The instruction, if there is one, is 00E0 or DXYN. -/
def DrawsOnScreen (o : Option Instr) : Prop := o = some .cls ∨ ∃ x y n, o = some (.drwVxVyNibble x y n)

section
variable {s t : State}

theorem dirty_skipIf (c : Bool) : (s.skipIf c).dirty = s.dirty := by cases c <;> rfl

theorem dirty_afterRand : s.afterRand.dirty = s.dirty := by
  unfold State.afterRand
  split <;> rfl

theorem dirty_afterKeySelect : s.afterKeySelect.dirty = s.dirty := by
  unfold State.afterKeySelect
  split <;> rfl

theorem dirty_moveAll {o : SeqOp} (h : o.moveAll s = .ok t) : t.dirty = s.dirty := by
  cases o with
  | bcd x | store x => exact (congrArg State.dirty (State.writeBytes_keeps h) :)
  | load x =>
    obtain ⟨bs, -, rfl⟩ := ok_of_map_eq_ok h
    exact s.setRegs_dirty bs

theorem dirty_finish (o : SeqOp) : (o.finish s).dirty = s.dirty := by cases o <;> rfl

theorem exec_seqOp_dirty (o : SeqOp) (h : exec o.instr s = .next t) : t.dirty = s.dirty := by
  obtain ⟨c, rfl⟩ | ⟨u, hu, rfl⟩ := orFault_map_cases (exec_seqOp_eq o s) h
  · rfl
  · exact (dirty_finish o).trans (dirty_moveAll hu)

theorem exec_dirty_kept {i : Instr} (hi : ¬ DrawsOnScreen (some i)) (h : exec i s = .next t) : t.dirty = s.dirty := by
  cases i with
  | cls => exact absurd (.inl rfl) hi
  | drwVxVyNibble x y n => exact absurd (.inr ⟨x, y, n, rfl⟩) hi
  | ret =>
    obtain hsp | hsp := Nat.eq_zero_or_pos s.sp.val
    · rw [exec_ret_of_empty hsp] at h
      cases h
      rfl
    · rw [exec_ret_of_entry hsp] at h
      cases h
      rfl
  | callAddr nnn =>
    obtain hsp | hsp : s.sp.val = 16 ∨ s.sp.val < 16 := by omega
    · rw [exec_callAddr_of_full nnn hsp] at h
      cases h
      rfl
    · rw [exec_callAddr_of_room nnn hsp] at h
      cases h
      rfl
  | skpVx x =>
    obtain ⟨c, rfl⟩ | ⟨k, -, rfl⟩ := orFault_map_cases (exec_skpVx_eq s x) h
    · rfl
    · exact dirty_skipIf _
  | sknpVx x =>
    obtain ⟨c, rfl⟩ | ⟨k, -, rfl⟩ := orFault_map_cases (exec_sknpVx_eq s x) h
    · rfl
    · exact dirty_skipIf _
  | ldBVx x => exact exec_seqOp_dirty (.bcd x) h
  | ldMemVx x => exact exec_seqOp_dirty (.store x) h
  | ldVxMem x => exact exec_seqOp_dirty (.load x) h
  | ldVxK x =>
    cases hk : s.keySelect with
    | none =>
      rw [exec_ldVxK_none hk] at h
      cases h
      rfl
    | some k =>
      rw [exec_ldVxK_some hk] at h
      cases h
      exact dirty_afterKeySelect
  | seVxByte x nn | sneVxByte x nn | seVxVy x y | sneVxVy x y =>
    cases h
    exact dirty_skipIf _
  | rndVxByte x nn =>
    cases h
    exact dirty_afterRand
  | _ =>
    cases h
    rfl

/-- 00E0, and DXYN unless it faults, set DIRTY. -/
theorem exec_dirty_set {i : Instr} (hi : DrawsOnScreen (some i)) (h : exec i s = .next t) :
    (∃ c : Fault, t = haltedWith c.code s) ∨ (t.dirty = true ∧ t.fault = s.fault) := by
  obtain hi | ⟨x, y, n, hi⟩ := hi
  · cases hi
    cases h
    exact .inr ⟨rfl, rfl⟩
  · cases hi
    obtain hc | ⟨rows, -, rfl⟩ := orFault_map_cases (exec_drwVxVyNibble_eq s x y n) h
    · exact .inl hc
    · exact .inr ⟨rfl, (keptByExec_drawSprite s x y rows).fault⟩

theorem nextInstr_of_noOp {w : Word} (hw : s.fetch = .ok w) (hd : decode s.params w = .noOp) : nextInstr s = none := by
  simp [nextInstr, hw, hd]

theorem not_drawsOnScreen_none : ¬ DrawsOnScreen none := by simp [DrawsOnScreen]

/-- A step of a CORE that is not halted keeps DIRTY, having faulted or executed neither 00E0 nor DXYN, or it executed one
of them without faulting and sets DIRTY. -/
theorem step_dirty_cases (hf : s.fault = false) (h : step s = .next t) :
    (t.dirty = s.dirty ∧ (t.fault = true ∨ ¬ DrawsOnScreen (nextInstr s))) ∨
      (t.dirty = true ∧ t.fault = false ∧ DrawsOnScreen (nextInstr s)) := by
  obtain ⟨-, ⟨hh, -⟩ | ⟨-, c, hc, rfl⟩ | ⟨-, w, hw, hd, rfl⟩ | ⟨-, w, i, hw, hd, hx⟩⟩ := step_cases h
  · cases hf.symm.trans hh
  · exact .inl ⟨rfl, .inl rfl⟩
  · exact .inl ⟨rfl, .inr (nextInstr_of_noOp hw hd ▸ not_drawsOnScreen_none)⟩
  · rw [nextInstr_of_decode hw hd]
    by_cases hi : DrawsOnScreen (some i)
    · obtain ⟨c, rfl⟩ | ⟨hdirty, hfault⟩ := exec_dirty_set hi hx
      · exact .inl ⟨rfl, .inl rfl⟩
      · exact .inr ⟨hdirty, hfault.trans hf, hi⟩
    · exact .inl ⟨exec_dirty_kept (s := s.advance w) hi hx, .inr hi⟩

end

/-- Settles O37, by the two things a step can do to DIRTY. -/
theorem dirtySetOnlyByDisplay : Obligations.DirtySetOnlyByDisplay := by
  unfold Obligations.DirtySetOnlyByDisplay
  intro s t _ hf h
  obtain ⟨hkept, hwhy⟩ | ⟨hset, hfault, hdraws⟩ := step_dirty_cases hf h
  · refine ⟨hkept.trans, fun hclear hset => ?_, fun hfault hdraws => ?_⟩
    · cases hclear.symm.trans (hkept.symm.trans hset)
    · obtain hfaulted | hnot := hwhy
      · cases hfault.symm.trans hfaulted
      · exact absurd hdraws hnot
  · exact ⟨fun _ => hset, fun _ _ => ⟨hfault, hdraws⟩, fun _ _ => hset⟩

end Sys2Proof
end

section
/-! PROOFS. Keys and timers (45_timers_keys.md R230 to R237): the key tests, the key a wait selects, and the transfers of
DT and ST. -/

namespace Sys2Proof

open Sys2Proof.Machine

/-! ### The key tests (R230, R231, R236) -/

theorem keyIndex_ok {p : KeyIndex} {v : Byte} (h : p = .wrap ∨ v.toNat ≤ 15) :
    keyIndex p v = .ok (Fin.ofNat 16 v.toNat) := by
  cases p with
  | wrap => rfl
  | fault =>
    have hlt : v.toNat < 16 := Nat.lt_succ_of_le (h.resolve_left (by decide))
    rw [keyIndex, dif_pos hlt]
    exact congrArg Except.ok (Fin.ext (Nat.mod_eq_of_lt hlt).symm)

section
variable {s : State} {x : Reg}

theorem exec_skpVx_of_key (h : s.params.keyIndex = .wrap ∨ (s.reg x).toNat ≤ 15) :
    exec (.skpVx x) s = .next (s.skipIf s.key[(s.reg x).toNat % 16]) := by
  rw [exec_skpVx_eq, keyIndex_ok h]
  rfl

theorem exec_sknpVx_of_key (h : s.params.keyIndex = .wrap ∨ (s.reg x).toNat ≤ 15) :
    exec (.sknpVx x) s = .next (s.skipIf (!s.key[(s.reg x).toNat % 16])) := by
  rw [exec_sknpVx_eq, keyIndex_ok h]
  rfl

theorem skipIf_pc {c : Bool} {p : Prop} [Decidable p] (hc : c = true ↔ p) :
    (s.skipIf c).pc = if p then s.pc + 2 else s.pc := by
  rw [← if_congr hc rfl rfl]
  cases c <;> rfl

end

/-- Settles O18. A key number in range selects a key and the test is a skip on it; one out of range under `fault` is the
fault that `faultOf` decides. -/
theorem keySkips : Obligations.KeySkips := by
  unfold Obligations.KeySkips
  intro s x
  refine ⟨fun h => ⟨?_, ?_⟩, fun hp hv => ⟨?_, ?_⟩⟩
  · exact ⟨_, exec_skpVx_of_key h, onlyPc_skipIf s _, skipIf_pc Iff.rfl⟩
  · exact ⟨_, exec_sknpVx_of_key h, onlyPc_skipIf s _, skipIf_pc (Bool.not_eq_true' _).to_iff⟩
  · exact exec_of_faultOf_some (c := .keyRange) (if_pos ⟨hp, hv⟩)
  · exact exec_of_faultOf_some (c := .keyRange) (if_pos ⟨hp, hv⟩)

/-! ### The timer transfers (R232, R234, R235) -/

/-- Settles O38. Each transfer is one write of its destination. -/
theorem timerTransfers : Obligations.TimerTransfers := by
  unfold Obligations.TimerTransfers
  intro s x
  exact ⟨⟨_, rfl, reg_setReg_self x _, onlyRegs_setReg x _⟩, ⟨_, rfl, rfl, rfl, fun _ => rfl⟩,
    ⟨_, rfl, rfl, rfl, fun _ => rfl⟩⟩

/-! ### The selected key (R237) -/

section
variable {s : State} {k : Fin 16}

theorem mem_pressedKeys : k ∈ s.pressedKeys ↔ s.key[k] = true := by
  simp [State.pressedKeys, State.keyAt]

theorem pressedKeys_eq_nil_iff : s.pressedKeys = [] ↔ ∀ k : Fin 16, s.key[k] = false := by
  simp [List.eq_nil_iff_forall_not_mem, mem_pressedKeys]

theorem pairwise_pressedKeys : s.pressedKeys.Pairwise (· < ·) :=
  (List.pairwise_lt_finRange 16).filter _

theorem keySelect_lowest (h : s.params.keySelect = .lowest) : s.keySelect = s.pressedKeys.head? := by
  rw [State.keySelect, h]

theorem keySelect_any (h : s.params.keySelect = .any) :
    s.keySelect = s.pressedKeys[Config.keyDraw s.draws % s.pressedKeys.length]? := by
  rw [State.keySelect, h]

/-- The draw is reduced to the length of the list, so it misses the list only when the list is empty. -/
theorem keySelect_eq_none_iff : s.keySelect = none ↔ s.pressedKeys = [] := by
  cases hp : s.params.keySelect with
  | lowest => rw [keySelect_lowest hp, List.head?_eq_none_iff]
  | any =>
    rw [keySelect_any hp, List.getElem?_eq_none_iff, ← List.length_eq_zero_iff]
    refine ⟨fun hle => Nat.eq_zero_of_not_pos fun hpos => ?_, fun h0 => h0 ▸ Nat.zero_le _⟩
    exact absurd (Nat.mod_lt _ hpos) (Nat.not_lt.2 hle)

theorem key_of_keySelect (h : s.keySelect = some k) : s.key[k] = true := by
  refine mem_pressedKeys.1 ?_
  cases hp : s.params.keySelect with
  | lowest => exact List.mem_of_head? ((keySelect_lowest hp).symm.trans h)
  | any => exact List.mem_of_getElem? ((keySelect_any hp).symm.trans h)

/-- Under `lowest` the selected key is the first of the rising list of pressed keys, so no smaller key is pressed. -/
theorem key_below_keySelect_lowest (hp : s.params.keySelect = .lowest) (h : s.keySelect = some k) {j : Fin 16}
    (hj : j < k) : s.key[j] = false := by
  rw [keySelect_lowest hp] at h
  obtain ⟨ks, hks⟩ := List.head?_eq_some_iff.1 h
  obtain ⟨hlt, -⟩ := List.pairwise_cons.1 (hks ▸ pairwise_pressedKeys)
  refine Bool.eq_false_iff.2 fun hpressed => ?_
  obtain rfl | hmem := List.mem_cons.1 (hks ▸ mem_pressedKeys.2 hpressed)
  · exact lt_irrefl _ hj
  · exact lt_asymm hj (hlt j hmem)

/-! ### The key wait (R233) -/

theorem afterKeySelect_lowest (h : s.params.keySelect = .lowest) : s.afterKeySelect = s := by
  rw [State.afterKeySelect, h]

theorem afterKeySelect_randIn : s.afterKeySelect.randIn = s.randIn := by
  unfold State.afterKeySelect
  split <;> rfl

theorem onlyRegsAndDraws_keySelect (x : Reg) (b : Byte) : OnlyRegsAndDraws [x] s (s.afterKeySelect.setReg x b) := by
  unfold State.afterKeySelect
  split <;> exact ⟨rfl, regsKeptBut_setReg x b fun _ => rfl, fun _ => rfl⟩

theorem keyNumber_toNat (k : Fin 16) : (BitVec.ofNat 8 k.val).toNat = k.val :=
  Nat.mod_eq_of_lt (Nat.lt_trans k.isLt (by decide))

end

/-- Settles O39, by whether a key is selected, which is whether one is pressed. -/
theorem keyWaitResult : Obligations.KeyWaitResult := by
  unfold Obligations.KeyWaitResult
  intro s x
  refine ⟨fun hnone => ?_, fun ⟨j, hj⟩ => ?_⟩
  · have hsel : s.keySelect = none := keySelect_eq_none_iff.2 (pressedKeys_eq_nil_iff.2 hnone)
    exact ⟨_, exec_ldVxK_none hsel x, onlyPc_setPc s _, rfl⟩
  · have hsel : s.keySelect ≠ none := fun h => List.ne_nil_of_mem (mem_pressedKeys.2 hj) (keySelect_eq_none_iff.1 h)
    obtain ⟨k, hk⟩ := Option.ne_none_iff_exists'.1 hsel
    refine ⟨_, exec_ldVxK_some hk x, onlyRegsAndDraws_keySelect x _, afterKeySelect_randIn, k, ?_,
      key_of_keySelect hk, fun hp => ⟨?_, fun j => key_below_keySelect_lowest hp hk⟩⟩
    · rw [reg_setReg_self, keyNumber_toNat]
    · rw [State.setReg_draws, afterKeySelect_lowest hp]

end Sys2Proof
end

section
/-! PROOFS. Faults (60_exceptions.md R251, R252): a step that faults leaves the state before it but for OPC and the fault
registers, and which causes are left when addresses and key indices wrap. -/

namespace Sys2Proof

open Sys2Proof.Machine

/-! ### The step that faults (R252) -/

/-- An instruction's halt, from the state after fetch and advance: moving PC back undoes the advance. -/
theorem haltedWith_advance (s : State) (c : Fault) (w : Word) :
    haltedWith c.code (s.advance w) = s.enterFault c s.pc w := by
  unfold haltedWith State.enterFault
  rw [State.advance_pc, BitVec.add_sub_cancel]
  rfl

/-- The instruction about to be executed is the decoded word of a fetch that does not fault. -/
theorem decode_of_nextInstr {s : State} {i : Instr} (h : nextInstr s = some i) :
    ∃ w, s.fetch = .ok w ∧ decode s.params w = .instr i := by
  unfold nextInstr at h
  split at h
  next => cases h
  next w hw =>
    split at h
    next hd => cases h; exact ⟨w, hw, hd⟩
    next => cases h

/-- A step that faults: its fetch faults, or the next instruction does, with the fault decided before its first
write. -/
theorem step_fault_cases {s t : State} (hf : s.fault = false) (h : step s = .next t) (ht : t.fault = true) :
    (∃ c, s.fetch = .error c ∧ t = s.enterFault c s.pc s.opc) ∨
      ∃ w i c, s.fetch = .ok w ∧ nextInstr s = some i ∧ faultOf i s = some c ∧ t = s.enterFault c s.pc w := by
  have running : s.fault ≠ true := Bool.eq_false_iff.1 hf
  obtain ⟨-, ⟨hh, -⟩ | ⟨-, c, hc, rfl⟩ | ⟨-, w, -, -, rfl⟩ | ⟨-, w, i, hw, hd, hx⟩⟩ := step_cases h
  · exact absurd hh running
  · exact .inl ⟨c, hc, rfl⟩
  · exact absurd ht running
  · obtain ⟨-, k⟩ | ⟨c, hc, rfl⟩ := exec_faultDecides hx
    · exact absurd (k.fault.symm.trans ht) running
    · exact .inr ⟨w, i, c, hw, nextInstr_of_decode hw hd, hc, haltedWith_advance s c w⟩

/-- Settles O42: in both ways a step can fault, the fault is entered from the state before the step. -/
theorem faultEntryIsPrecise : Obligations.FaultEntryIsPrecise := by
  unfold Obligations.FaultEntryIsPrecise
  intro s t _ hf h ht
  obtain ⟨c, hc, rfl⟩ | ⟨w, i, c, hw, -, -, rfl⟩ := step_fault_cases hf h ht
  · obtain ⟨hlo, hhi⟩ := c.code_range
    exact ⟨rfl, hlo, hhi, fun w hw => (nomatch hc.symm.trans hw), fun _ => rfl⟩
  · obtain ⟨hlo, hhi⟩ := c.code_range
    exact ⟨rfl, hlo, hhi, fun v hv => Except.ok.inj (hw.symm.trans hv), fun hne => absurd hw (hne w)⟩

/-! ### The causes that remain under the default policies (R251) -/

section
variable {s : State} {c : Fault}

theorem readFault_of_wrap (ha : s.params.addrPolicy = .wrap) (n : Nat) : s.readFault n = none :=
  readFault_of_addressesOk (.inl ha)

/-- A store through I whose addresses wrap has only the reserved region left to fault in. -/
theorem writeFault_of_wrap (ha : s.params.addrPolicy = .wrap) {n : Nat} (h : s.writeFault n = some c) :
    c = .reservedWrite := by
  rw [State.writeFault, readFault_of_wrap ha] at h
  dsimp only at h
  split at h
  · cases h; rfl
  · cases h

theorem not_keyRange_of_wrap (hk : s.params.keyIndex = .wrap) (x : Reg) :
    ¬ (s.params.keyIndex = .fault ∧ (s.reg x).toNat > 15) := by
  rw [hk]
  exact fun h => KeyIndex.noConfusion h.1

/-- The fault of an instruction where addresses and key indices wrap. -/
theorem faultOf_of_wrap {i : Instr} (ha : s.params.addrPolicy = .wrap) (hk : s.params.keyIndex = .wrap)
    (h : faultOf i s = some c) :
    (c = .stackOverflow ∧ s.sp.val = 16 ∧ ∃ nnn, i = .callAddr nnn) ∨
    (c = .stackUnderflow ∧ s.sp.val = 0 ∧ i = .ret) ∨
    (c = .reservedWrite ∧ ∃ x, i = .ldBVx x ∨ i = .ldMemVx x) := by
  cases i with
  | callAddr nnn =>
    obtain ⟨hsp, hc⟩ := Option.ite_none_right_eq_some.1 h
    exact .inl ⟨(Option.some.inj hc).symm, hsp, nnn, rfl⟩
  | ret =>
    obtain ⟨hsp, hc⟩ := Option.ite_none_right_eq_some.1 h
    exact .inr (.inl ⟨(Option.some.inj hc).symm, hsp, rfl⟩)
  | ldBVx x => exact .inr (.inr ⟨writeFault_of_wrap ha h, x, .inl rfl⟩)
  | ldMemVx x => exact .inr (.inr ⟨writeFault_of_wrap ha h, x, .inr rfl⟩)
  | skpVx x | sknpVx x => exact absurd (Option.ite_none_right_eq_some.1 h).1 (not_keyRange_of_wrap hk x)
  | drwVxVyNibble x y n => cases (readFault_of_wrap ha n.toNat).symm.trans h
  | ldVxMem x => cases (readFault_of_wrap ha (x.val + 1)).symm.trans h
  | _ => cases h

end

/-- Settles O44. A fetch whose addresses wrap does not fault, so the fault is the next instruction's. -/
theorem defaultFaultCauses : Obligations.DefaultFaultCauses := by
  unfold Obligations.DefaultFaultCauses
  intro s t ha hk _ hf h ht
  obtain ⟨c, hc, -⟩ | ⟨w, i, c, -, hi, hc, rfl⟩ := step_fault_cases hf h ht
  · obtain ⟨-, hp, -⟩ := State.fetch_error hc
    cases ha.symm.trans hp
  · obtain ⟨rfl, hsp, nnn, rfl⟩ | ⟨rfl, hsp, rfl⟩ | ⟨rfl, x, hx⟩ := faultOf_of_wrap ha hk hc
    · exact .inl ⟨rfl, hsp, nnn, hi⟩
    · exact .inr (.inl ⟨rfl, hsp, hi⟩)
    · exact .inr (.inr ⟨rfl, x, hx.imp (fun e => hi.trans (congrArg some e)) fun e => hi.trans (congrArg some e)⟩)

end Sys2Proof
end

section
/-! PROOFS. The host operations (60_exceptions.md R253, R260, R270 to R273, R277): what each does to a started CORE, halted or
not, that each keeps the invariant, and the step at the end of a run. -/

namespace Sys2Proof

open Sys2Proof.Machine

/-! ### Tick, WriteKeys, ClearDirty and Observe (R260, R272 to R274) -/

/-- An operation that answers a next state is the operation itself: it was not refused. -/
theorem eq_next_of_whenStarted {s t : State} {o : Host.Outcome State Fault Refusal}
    (h : s.whenStarted o = .next t) : o = .next t := by
  unfold State.whenStarted at h
  split at h
  · exact h
  · cases h

section
variable {s : State} (hs : s.started = true)
include hs

theorem whenStarted_started (o : Host.Outcome State Fault Refusal) : s.whenStarted o = o := by
  rw [State.whenStarted, if_pos hs]

theorem perform_tick : perform .tick s = .next s.tick := whenStarted_started hs _

theorem perform_writeKeys (m : Word) : perform (.writeKeys m) s = .next (s.writeKeys m) := whenStarted_started hs _

theorem perform_clearDirty : perform .clearDirty s = .next s.clearDirty := whenStarted_started hs _

theorem perform_observe : perform .observe s = .next s := whenStarted_started hs _

end

/-- One tick of a timer: down by one, floored at 0. -/
theorem countDown_toNat (b : Byte) : (if b = 0 then 0 else b - 1 : Byte).toNat = b.toNat - 1 := by
  split
  next h => rw [h]; rfl
  next h => bv_omega

section
variable (s : State)

theorem tick_dt_toNat : s.tick.dt.toNat = s.dt.toNat - 1 := countDown_toNat s.dt

theorem tick_st_toNat : s.tick.st.toNat = s.st.toNat - 1 := countDown_toNat s.st

theorem tick_keeps : { s.tick with dt := s.dt, st := s.st } = s := rfl

theorem writeKeys_key (m : Word) (k : Fin 16) : (s.writeKeys m).key[k] = m.getLsbD k.val :=
  Vector.getElem_ofFn k.isLt

end

/-- Settles O52. None of the three writes the memory list. -/
theorem tickAndHostWrites : Obligations.TickAndHostWrites := by
  unfold Obligations.TickAndHostWrites
  intro s m hs
  exact ⟨⟨_, perform_tick hs, tick_dt_toNat s, tick_st_toNat s, tick_keeps s, fun _ => rfl⟩,
    ⟨_, perform_writeKeys hs m, writeKeys_key s m, s.writeKeys_keeps m, fun _ => rfl⟩,
    ⟨_, perform_clearDirty hs, rfl, rfl, fun _ => rfl⟩⟩

/-! ### Reset and Load -/

section
variable (s : State)

/-- What a Load leaves in the elements other than memory and LOAD_ERR is what Reset leaves there. -/
theorem doLoad_keeps (bytes : List Byte) (ok : Bool) :
    { s.doLoad bytes ok with mem := [], loadErr := false } = s.doReset := by
  unfold State.doLoad
  split
  · exact congrArg (fun u : State => { u with loadErr := false }) (State.setBytes_keeps s.doReset _ bytes)
  · rfl

theorem doLoad_memoryOk (bytes : List Byte) (ok : Bool) : MemoryOk (s.doLoad bytes ok) := by
  have hreset : MemoryOk s.doReset := State.wf_resetOf s.params s.draws
  unfold State.doLoad
  split
  next h =>
    have hlen : bytes.length ≤ 3584 := of_decide_eq_true (Bool.and_eq_true_iff.1 h).2
    exact State.wf_setBytes hreset bytes (show 0x200 + bytes.length ≤ 4096 by omega)
  next => exact hreset

theorem faultStatusOk_doReset : FaultStatusOk s.doReset := ⟨rfl, rfl⟩

theorem doReset_inv : Inv s.doReset := ⟨State.wf_resetOf s.params s.draws, faultStatusOk_doReset s⟩

variable (bytes : List Byte) (ok : Bool)

theorem doLoad_fault : (s.doLoad bytes ok).fault = false := (congrArg State.fault (doLoad_keeps s bytes ok) :)

theorem doLoad_params : (s.doLoad bytes ok).params = s.params := (congrArg State.params (doLoad_keeps s bytes ok) :)

theorem doLoad_inv : Inv (s.doLoad bytes ok) := by
  have hstatus : FaultStatusOk { s.doLoad bytes ok with mem := [], loadErr := false } := by
    rw [doLoad_keeps]
    exact faultStatusOk_doReset s
  exact ⟨doLoad_memoryOk s bytes ok, hstatus⟩

end

/-! ### The halt (R121, R253) -/

theorem perform_step_halted {s : State} (hs : s.started = true) (hf : s.fault = true) (r : Byte) :
    perform (.step r) s = .next { s with randIn := none } := by
  change s.stepWith r = _
  unfold State.stepWith
  rw [step_of_halted (s := s.presentRand r) hs hf]
  rfl

/-- Settles O45, operation by operation. -/
theorem haltEndsOnlyByResetOrLoad : Obligations.HaltEndsOnlyByResetOrLoad := by
  unfold Obligations.HaltEndsOnlyByResetOrLoad
  intro s hs hf
  exact ⟨step_of_halted hs hf, perform_step_halted hs hf,
    ⟨_, perform_tick hs, tick_dt_toNat s, tick_st_toNat s, tick_keeps s⟩,
    fun m => ⟨_, perform_writeKeys hs m, writeKeys_key s m, s.writeKeys_keeps m⟩,
    perform_clearDirty hs, perform_observe hs, ⟨_, rfl, rfl⟩,
    fun bytes ok => ⟨_, rfl, doLoad_fault s bytes ok⟩⟩

/-! ### The invariant under every host operation -/

/-- A Step with a byte on the RAND input is a step with it presented, and the byte withdrawn after it. -/
theorem step_of_stepWith {s t : State} {r : Byte} (h : s.stepWith r = .next t) :
    ∃ u, step (s.presentRand r) = .next u ∧ t = u.withdrawRand := by
  unfold State.stepWith at h
  split at h
  next u hu => cases h; exact ⟨u, hu, rfl⟩
  next => cases h
  next => cases h

/-- Settles O48, by the cases of the operation. The invariant and the parameters do not see the RAND input, the timers,
the key latch or DIRTY. -/
theorem hostOperationsKeepInvariant : Obligations.HostOperationsKeepInvariant := by
  unfold Obligations.HostOperationsKeepInvariant
  intro op s t hs h
  cases op with
  | reset => cases h; exact ⟨doReset_inv s, rfl⟩
  | load bytes ok => cases h; exact ⟨doLoad_inv s bytes ok, doLoad_params s bytes ok⟩
  | step r =>
    obtain ⟨u, hu, rfl⟩ := step_of_stepWith h
    exact ⟨stepKeepsInvariant (s.presentRand r) u hs hu, (step_hostStateKept hu).params⟩
  | tick | writeKeys m | clearDirty | observe => cases eq_next_of_whenStarted h; exact ⟨hs, rfl⟩

/-! ### The end of a run (R277) -/

/-- The end of a run does not depend on OPC. -/
theorem endedSuccessfully_setOpc {s : State} (w : Word) (h : endedSuccessfully s) :
    endedSuccessfully { s with opc := w } := h

/-- Settles O55: the jump puts PC back where the advance moved it from. -/
theorem idleSelfJumpChangesOnlyOpc : Obligations.IdleSelfJumpChangesOnlyOpc := by
  unfold Obligations.IdleSelfJumpChangesOnlyOpc
  intro s hs hend
  obtain ⟨hf, nnn, hi, hpc⟩ := hend
  obtain ⟨w, hw, hd⟩ := decode_of_nextInstr hi
  refine ⟨w, ?_, endedSuccessfully_setOpc w ⟨hf, nnn, hi, hpc⟩⟩
  calc step s = exec (.jpAddr nnn) (s.advance w) := stepRunsDecodedInstruction s w _ hs hf hw hd
    _ = .next ((s.advance w).setPc (zextAddr nnn)) := rfl
    _ = .next { s with opc := w } := by rw [hpc]; rfl

end Sys2Proof
end

section
/-! PROOFS. The ports (60_exceptions.md R271, R274, R275): the order of the requests of one cycle, what the output ports
show, and that the observable bits determine every state element. -/

namespace Sys2Proof

open Sys2Proof.Machine

/-! ### The requests of one cycle (R271) -/

/-- The state the requests of a cycle other than Reset, Load and Step leave, in the order of R271: WriteKeys,
ClearDirty, Tick. -/
def Machine.State.afterHostWrites (s : State) (p : PortsIn) : State :=
  let s1 := if p.keysWe then s.writeKeys p.keysIn else s
  let s2 := if p.dirtyClr then s1.clearDirty else s1
  if p.tickReq then s2.tick else s2

theorem serveRequests_eq (p : PortsIn) (s : State) :
    serveRequests p s =
      if p.stepReq = true ∧ (s.afterHostWrites p).fault = false
      then ⟨{ s.afterHostWrites p with randIn := none }, .fetch⟩ else PortState.rest (s.afterHostWrites p) := by
  have hstep : (p.stepReq && !(s.afterHostWrites p).fault) = true ↔
      p.stepReq = true ∧ (s.afterHostWrites p).fault = false := by
    rw [Bool.and_eq_true_iff, Bool.not_eq_true']
  exact if_congr hstep rfl rfl

theorem performAll_append {xs ys : List HostOp} {s t : State} (h : performAll xs s = .next t) :
    performAll (xs ++ ys) s = performAll ys t := by
  induction xs generalizing s with
  | nil => cases h; rfl
  | cons op ops ih =>
    rw [performAll] at h
    rw [List.cons_append, performAll]
    cases ho : perform op s with
    | next u => rw [ho] at h; exact ih h
    | fault c | refused e => rw [ho] at h; cases h

/-- An operation performed if it is requested. -/
theorem performAll_if {op : HostOp} {s t : State} (b : Bool) (h : perform op s = .next t) :
    performAll (if b then [op] else []) s = .next (if b then t else s) := by
  cases b with
  | false => rfl
  | true =>
    change performAll [op] s = .next t
    rw [performAll, h]
    rfl

theorem started_if {s t : State} (b : Bool) (hs : s.started = true) (ht : t.started = true) :
    (if b then t else s).started = true := by
  cases b with
  | false => exact hs
  | true => exact ht

theorem performAll_hostWrites {s : State} (p : PortsIn) (hs : s.started = true) :
    performAll ((if p.keysWe then [HostOp.writeKeys p.keysIn] else []) ++
      (if p.dirtyClr then [HostOp.clearDirty] else []) ++ (if p.tickReq then [HostOp.tick] else [])) s =
      .next (s.afterHostWrites p) := by
  have hkeys := performAll_if p.keysWe (perform_writeKeys hs p.keysIn)
  have hs1 := started_if (t := s.writeKeys p.keysIn) p.keysWe hs hs
  have hdirty := performAll_if p.dirtyClr (perform_clearDirty hs1)
  have hs2 := started_if p.dirtyClr hs1 (t := State.clearDirty _) hs1
  have htick := performAll_if p.tickReq (perform_tick hs2)
  rw [performAll_append ((performAll_append hkeys).trans hdirty)]
  exact htick

section
variable {p : PortsIn} {s : State}

/-- At rest, a cycle without a Reset or a Load serves the other requests. -/
theorem idleCycle_of_no_load (hs : s.started = true) (hl : p.loadStart = false) (hv : p.loadByteValid = false)
    (ha : p.loadAbort = false) : idleCycle p s = .next (serveRequests p s) := by
  simp [idleCycle, hs, hl, hv, ha]

/-- A Load begins alone: it reads the load ports and no other request. -/
theorem idleCycle_loadStart_congr {q : PortsIn} (hp : p.loadStart = true) (hq : q.loadStart = true)
    (hlen : q.loadLen = p.loadLen) (hv : q.loadByteValid = p.loadByteValid) (ha : q.loadAbort = p.loadAbort) :
    idleCycle p s = idleCycle q s := by
  simp only [idleCycle, hp, hq, if_true, startLoad, hlen, hv, ha]

end

/-- Settles O58, by the three kinds of requests. -/
theorem sameCycleRequestOrder : Obligations.SameCycleRequestOrder := by
  unfold Obligations.SameCycleRequestOrder
  intro s p r hs hv ha
  refine ⟨fun hrst => ⟨s.doReset, rfl, ?_⟩, fun hrst hl => ?_, fun hrst hl => ?_⟩
  · have hreset : cycle p (PortState.rest s) = .next ⟨s, .reset⟩ := if_pos hrst
    rw [cycles, hreset]
    rfl
  · rw [cycle_rest hrst, cycle_rest rfl]
    exact idleCycle_loadStart_congr hl rfl rfl hv.symm ha.symm
  · refine ⟨_, performAll_hostWrites p hs, ?_⟩
    rw [cycle_rest hrst, idleCycle_of_no_load hs hl hv ha, serveRequests_eq]

/-! ### The output ports (R274, R275) -/

theorem obsPort_of_wires {s : State} {bits : List ObsBit} (h : s.params.obsMap = .wires bits) :
    s.obsPort = bits.map s.obsBit := by
  rw [State.obsPort, h]

/-- Settles O59. An address of 11 bits has its row below 32, so the port reads row a / 64 itself. -/
theorem outputPortsReadBetweenOperations : Obligations.OutputPortsReadBetweenOperations := by
  unfold Obligations.OutputPortsReadBetweenOperations
  intro m a
  refine ⟨fun hs => perform_observe hs, fun hb => ⟨m.whenReadable_busy _ hb, m.whenReadable_busy _ hb⟩,
    fun hb hs => ⟨m.whenReadable_powerOn _ hb hs, m.whenReadable_powerOn _ hb hs⟩,
    fun hb hs => ⟨⟨_, m.whenReadable_next _ hb hs, hb, rfl, rfl, rfl, rfl, rfl, fun bits hbits => ?_⟩,
      _, _, ?_, ?_, m.whenReadable_next _ hb hs⟩⟩
  · dsimp only
    rw [obsPort_of_wires hbits]
    exact ⟨List.length_map _, fun k hk => by rw [List.getElem?_map, List.getElem?_eq_getElem hk]; rfl⟩
  · exact Nat.mod_mod a.toNat 64
  · exact Nat.mod_eq_of_lt (Nat.div_lt_of_lt_mul a.isLt)

/-! ### Every element is observable (R274) -/

theorem eq_of_getLsbD_fin {n : Nat} {x y : BitVec n} (h : ∀ b : Fin n, x.getLsbD b.val = y.getLsbD b.val) : x = y :=
  BitVec.eq_of_getLsbD_eq fun k hk => h ⟨k, hk⟩

theorem vector_eq_of_fin {α : Type} {n : Nat} {x y : Vector α n} (h : ∀ k : Fin n, x[k] = y[k]) : x = y :=
  Vector.ext fun k hk => h ⟨k, hk⟩

/-- SP is below 32, so its five bits determine it (10_state.md R28). -/
theorem sp_eq_of_bits {a b : Fin 17} (h : ∀ k : Fin 5, a.val.testBit k.val = b.val.testBit k.val) : a = b := by
  refine Fin.ext (Nat.eq_of_testBit_eq fun k => ?_)
  by_cases hk : k < 5
  · exact h ⟨k, hk⟩
  · have hpow : 2 ^ 5 ≤ 2 ^ k := Nat.pow_le_pow_right (by decide) (Nat.le_of_not_lt hk)
    rw [Nat.testBit_lt_two_pow (show a.val < 2 ^ k by omega), Nat.testBit_lt_two_pow (show b.val < 2 ^ k by omega)]

/-- With the same parameters, canonical memories that agree in every bit of every byte are the same list. -/
theorem mem_eq_of_bits {s t : State} (hs : MemoryOk s) (ht : MemoryOk t) (hp : t.params = s.params)
    (h : ∀ (a : Fin 4096) (b : Fin 8), (t.byteAt a.val).getLsbD b.val = (s.byteAt a.val).getLsbD b.val) :
    t.mem = s.mem := by
  have hread : ∀ a, a < 4096 → t.byteAt a = s.byteAt a := fun a ha => eq_of_getLsbD_fin (h ⟨a, ha⟩)
  unfold State.byteAt at hread
  unfold MemoryOk at ht
  rw [hp] at ht hread
  exact Memory.ext s.params.font ht hs hread

/-- Settles O60: each element is put together from its observable bits. -/
theorem everyElementIsObservable : Obligations.EveryElementIsObservable := by
  unfold Obligations.EveryElementIsObservable
  intro s t hms hmt hp h
  have hv : t.v = s.v := vector_eq_of_fin fun x => eq_of_getLsbD_fin fun b => h (.v x b)
  have hi : t.i = s.i := eq_of_getLsbD_fin fun b => h (.i b)
  have hpc : t.pc = s.pc := eq_of_getLsbD_fin fun b => h (.pc b)
  have hsp : t.sp = s.sp := sp_eq_of_bits fun b => h (.sp b)
  have hstack : t.stack = s.stack := vector_eq_of_fin fun k => eq_of_getLsbD_fin fun b => h (.stack k b)
  have hdt : t.dt = s.dt := eq_of_getLsbD_fin fun b => h (.dt b)
  have hst : t.st = s.st := eq_of_getLsbD_fin fun b => h (.st b)
  have hkey : t.key = s.key := vector_eq_of_fin fun k => h (.key k)
  have hfb : t.fb = s.fb := vector_eq_of_fin fun y => vector_eq_of_fin fun x => h (.fb x y)
  have hdirty : t.dirty = s.dirty := h .dirty
  have hopc : t.opc = s.opc := eq_of_getLsbD_fin fun b => h (.opc b)
  have hfault : t.fault = s.fault := h .fault
  have hfcause : t.fcause = s.fcause := eq_of_getLsbD_fin fun b => h (.fcause b)
  have hfpc : t.fpc = s.fpc := eq_of_getLsbD_fin fun b => h (.fpc b)
  have hloadErr : t.loadErr = s.loadErr := h .loadErr
  have hmem : t.mem = s.mem := mem_eq_of_bits hms hmt hp fun a b => h (.mem a b)
  rw [← hv, ← hi, ← hpc, ← hsp, ← hstack, ← hdt, ← hst, ← hkey, ← hfb, ← hdirty, ← hopc, ← hfault, ← hfcause,
    ← hfpc, ← hloadErr, ← hmem, ← hp]

end Sys2Proof
end

section
/-! PROOFS. Reset and Load (70_reset_and_hazards.md R290, R294 to R297): the reset state, the memory a Load leaves, and the
byte-by-byte Load at the ports. -/

namespace Sys2Proof

open Sys2Proof.Machine

/-! ### The reset state (R290) -/

theorem byteAt_resetOf (p : Params) (n a : Nat) : (State.resetOf p n).byteAt a = resetByte p.font a := rfl

theorem resetByte_font (f : Font) (k : Fin 80) : resetByte f k.val = f[k] := dif_pos k.isLt

theorem resetByte_above (f : Font) {a : Nat} (h : 80 ≤ a) : resetByte f a = 0 := dif_neg (Nat.not_lt.2 h)

theorem reg_resetOf (p : Params) (n : Nat) (r : Reg) : (State.resetOf p n).reg r = 0 :=
  Vector.getElem_replicate r.isLt

theorem stack_resetOf (p : Params) (n : Nat) (k : Fin 16) : (State.resetOf p n).stack[k] = 0 :=
  Vector.getElem_replicate k.isLt

theorem key_resetOf (p : Params) (n : Nat) (k : Fin 16) : (State.resetOf p n).key[k] = false :=
  Vector.getElem_replicate k.isLt

theorem pixel_resetOf (p : Params) (n : Nat) (px : Fin 64) (py : Fin 32) : (State.resetOf p n).pixel px py = false :=
  Frame.pixel_blank px py

/-- Settles O47: the reset state is what Reset makes of any state with these parameters and draws. -/
theorem resetMeetsInvariant : Obligations.ResetMeetsInvariant := by
  unfold Obligations.ResetMeetsInvariant
  intro p n
  exact ⟨doReset_inv { State.reset with params := p, draws := n }, fun a _ => byteAt_resetOf p n a⟩

/-- `rst_req` is accepted in every phase and abandons the operation in progress. -/
theorem cycle_rstReq {p : PortsIn} (hp : p.rstReq = true) (m : PortState) : cycle p m = .next ⟨m.core, .reset⟩ :=
  if_pos hp

/-- The RESET state of the dispatch state machine takes one cycle. -/
theorem settles_reset (r : Byte) (s : State) : Settles r 1 ⟨s, .reset⟩ s.doReset := .last rfl

theorem cycles_cons {p : PortsIn} {ps : List PortsIn} {m m' : PortState} (h : cycle p m = .next m') :
    cycles (p :: ps) m = cycles ps m' := by
  rw [cycles, h]

/-- Settles O53: one cycle accepts the request, and the next performs the Reset. -/
theorem resetGivesResetState : Obligations.ResetGivesResetState := by
  unfold Obligations.ResetGivesResetState
  intro s
  exact ⟨s.doReset, rfl, fun h p r hp => ⟨1, (cycles_cons (cycle_rstReq hp ⟨s, h⟩)).trans (settles_reset r s)⟩,
    reg_resetOf _ _, rfl, rfl, rfl, stack_resetOf _ _, rfl, rfl, key_resetOf _ _, pixel_resetOf _ _, rfl, rfl, rfl,
    rfl, rfl, rfl, resetByte_font s.params.font, fun _ => resetByte_above s.params.font⟩

/-! ### The Load operation (R295 to R297) -/

section
variable (s : State) {bytes : List Byte} {ok : Bool}

theorem doLoad_of_fits (h : bytes.length ≤ 3584) : s.doLoad bytes true = s.doReset.setBytes 0x200 bytes :=
  if_pos (decide_eq_true h)

theorem doLoad_of_fails (h : ok = false ∨ 3584 < bytes.length) : s.doLoad bytes ok = s.failLoad := by
  unfold State.doLoad
  obtain rfl | hlong := h
  · rfl
  · rw [decide_eq_false (Nat.not_le.2 hlong), Bool.and_false]
    rfl

/-- A Load of an image that fits: every byte of memory after it. -/
theorem byteAt_doLoad (h : bytes.length ≤ 3584) (a : Nat) :
    (s.doLoad bytes true).byteAt a =
      if hb : 0x200 ≤ a ∧ a < 0x200 + bytes.length then bytes[a - 0x200] else s.doReset.byteAt a := by
  rw [doLoad_of_fits s h]
  exact State.byteAt_setBytes (State.wf_resetOf s.params s.draws) (by omega) a

theorem byteAt_doLoad_image (h : bytes.length ≤ 3584) {n : Nat} (hn : n < bytes.length) :
    (s.doLoad bytes true).byteAt (0x200 + n) = bytes[n] := by
  rw [byteAt_doLoad s h, dif_pos ⟨by omega, by omega⟩]
  exact getElem_congr_idx (Nat.add_sub_cancel_left 0x200 n)

theorem byteAt_doLoad_outside (h : bytes.length ≤ 3584) {a : Nat} (ha : a < 0x200 ∨ 0x200 + bytes.length ≤ a) :
    (s.doLoad bytes true).byteAt a = s.doReset.byteAt a := by
  rw [byteAt_doLoad s h, dif_neg (by omega)]

/-- An image placed in memory does not change what a failed Load makes of the state. -/
theorem failLoad_setBytes (a : Nat) : (s.doReset.setBytes a bytes).failLoad = s.failLoad :=
  (congrArg State.failLoad (State.setBytes_keeps s.doReset a bytes) :)

end

/-- Settles O54, by whether the image is placed or the Load fails. -/
theorem loadPlacesImageOrFails : Obligations.LoadPlacesImageOrFails := by
  unfold Obligations.LoadPlacesImageOrFails
  intro s bytes ok
  refine ⟨s.doReset, s.doLoad bytes ok, rfl, rfl, ?_, ?_, doLoad_of_fails s⟩
  · rintro rfl hlen
    have hkeeps : { s.doLoad bytes true with mem := s.doReset.mem } = s.doReset := by
      rw [doLoad_of_fits s hlen]
      exact State.setBytes_keeps s.doReset 0x200 bytes
    exact ⟨fun n hn => byteAt_doLoad_image s hlen hn, fun a ha => byteAt_doLoad_outside s hlen ha,
      (congrArg State.loadErr hkeeps :), hkeeps⟩
  · rintro rfl rfl
    exact doLoad_of_fits s (Nat.zero_le 3584)

/-! ### The byte-by-byte Load (R294; 60_exceptions.md R275) -/

/-- A cycle that asks for a Load of `n` bytes. -/
def Machine.PortsIn.askLoad (n : Word) : PortsIn := { PortsIn.quiet 0 with loadStart := true, loadLen := n }

/-- A cycle that sends the byte `b` of a Load. -/
def Machine.PortsIn.sendByte (b : Byte) : PortsIn := { PortsIn.quiet 0 with loadByteValid := true, loadByte := b }

/-- A cycle that aborts a Load. -/
def Machine.PortsIn.abortLoad : PortsIn := { PortsIn.quiet 0 with loadAbort := true }

theorem cycles_append {ps qs : List PortsIn} {m m' : PortState} (h : cycles ps m = .next m') :
    cycles (ps ++ qs) m = cycles qs m' := by
  induction ps generalizing m with
  | nil => cases h; rfl
  | cons p ps ih =>
    rw [cycles] at h
    rw [List.cons_append, cycles]
    cases hc : cycle p m with
    | next u => rw [hc] at h; exact ih h
    | fault c | refused e => rw [hc] at h; cases h

section
variable (s : State)

/-- At rest, a cycle that asks for a Load answers what `startLoad` answers, which here depends on the length alone. -/
theorem cycle_askLoad (n : Word) : cycle (.askLoad n) (PortState.rest s) =
    if 3584 < n.toNat then .next (PortState.rest s.failLoad)
    else if n = 0 then .next (PortState.rest s.doReset)
    else .next ⟨s.doReset, .load n.toNat 0x200⟩ := by
  rw [cycle_rest rfl]
  change (if decide (n.toNat > 3584) = true then _ else _) = _
  exact if_congr decide_eq_true_iff rfl rfl

theorem cycle_askLoad_of_long {n : Word} (h : 3584 < n.toNat) :
    cycle (.askLoad n) (PortState.rest s) = .next (PortState.rest s.failLoad) := by
  rw [cycle_askLoad, if_pos h]

theorem cycle_askLoad_zero : cycle (.askLoad 0) (PortState.rest s) = .next (PortState.rest s.doReset) := by
  rw [cycle_askLoad, if_neg (by decide), if_pos rfl]

theorem cycle_askLoad_of_fits {n : Word} (h0 : 0 < n.toNat) (h : n.toNat ≤ 3584) :
    cycle (.askLoad n) (PortState.rest s) = .next ⟨s.doReset, .load n.toNat 0x200⟩ := by
  have hn : n ≠ 0 := by rintro rfl; exact Nat.lt_irrefl 0 h0
  rw [cycle_askLoad, if_neg (Nat.not_lt.2 h), if_neg hn]

theorem cycle_sendByte_last (b : Byte) (a : Nat) :
    cycle (.sendByte b) ⟨s, .load 1 a⟩ = .next (PortState.rest (s.setByte a b)) := rfl

theorem cycle_sendByte (b : Byte) {n : Nat} (h : 0 < n) (a : Nat) :
    cycle (.sendByte b) ⟨s, .load (n + 1) a⟩ = .next ⟨s.setByte a b, .load n (a + 1)⟩ := by
  change (if n + 1 ≤ 1 then _ else _) = _
  exact if_neg (by omega)

theorem cycle_abortLoad (n a : Nat) :
    cycle .abortLoad ⟨s, .load n a⟩ = .next (PortState.rest s.failLoad) := rfl

variable {s}

/-- A proper prefix of the bytes: they are placed, and the Load expects the others. -/
theorem cycles_sendBytes (xs : List Byte) {n : Nat} (h : 0 < n) (a : Nat) :
    cycles (xs.map .sendByte) ⟨s, .load (n + xs.length) a⟩ =
      .next ⟨s.setBytes a xs, .load n (a + xs.length)⟩ := by
  induction xs generalizing s a with
  | nil => rfl
  | cons x xs ih =>
    have hsent := (cycles_cons (cycle_sendByte s x (show 0 < n + xs.length by omega) a)).trans (ih (a + 1))
    rw [Nat.add_right_comm a 1] at hsent
    exact hsent

/-- All the bytes: they are placed, and the Load is over. -/
theorem cycles_sendBytes_all {xs : List Byte} (h : 0 < xs.length) (a : Nat) :
    cycles (xs.map .sendByte) ⟨s, .load xs.length a⟩ = .next (PortState.rest (s.setBytes a xs)) := by
  induction xs generalizing s a with
  | nil => cases h
  | cons x xs ih =>
    cases xs with
    | nil => exact cycles_cons (cycle_sendByte_last s x a)
    | cons y ys => exact (cycles_cons (cycle_sendByte s x (Nat.succ_pos _) a)).trans (ih (Nat.succ_pos _) (a + 1))

variable (s)

/-- The whole image sent: the state of the Load operation. -/
theorem cycles_load {bytes : List Byte} (h : bytes.length ≤ 3584) :
    cycles (.askLoad (BitVec.ofNat 16 bytes.length) :: bytes.map .sendByte) (PortState.rest s) =
      .next (PortState.rest (s.doLoad bytes true)) := by
  rw [doLoad_of_fits s h]
  obtain hnil | hpos := Nat.eq_zero_or_pos bytes.length
  · obtain rfl := List.length_eq_zero_iff.1 hnil
    exact cycles_cons (cycle_askLoad_zero s)
  · have hlen : (BitVec.ofNat 16 bytes.length).toNat = bytes.length := Nat.mod_eq_of_lt (by omega)
    have hstart := cycle_askLoad_of_fits s (n := BitVec.ofNat 16 bytes.length) (by omega) (by omega)
    rw [cycles_cons hstart, hlen]
    exact cycles_sendBytes_all hpos 0x200

/-- A Load aborted after a proper prefix of its bytes: the state of a failed Load. -/
theorem cycles_load_aborted {bytes : List Byte} {n : Word} (h : bytes.length < n.toNat) (hn : n.toNat ≤ 3584) :
    cycles (.askLoad n :: (bytes.map .sendByte ++ [.abortLoad])) (PortState.rest s) =
      .next (PortState.rest s.failLoad) := by
  have hrest : n.toNat = n.toNat - bytes.length + bytes.length := by omega
  have hsent := cycles_sendBytes (s := s.doReset) bytes (n := n.toNat - bytes.length) (by omega) 0x200
  rw [cycles_cons (cycle_askLoad_of_fits s (by omega) hn), hrest, cycles_append hsent,
    cycles_cons (cycle_abortLoad _ _ _), failLoad_setBytes]
  rfl

end

/-- Settles O57: an image sent whole, rejected for its length, and aborted. -/
theorem portLoadRefinesLoad : Obligations.PortLoadRefinesLoad := by
  unfold Obligations.PortLoadRefinesLoad
  intro s bytes
  exact ⟨fun h => ⟨s.doLoad bytes true, rfl, cycles_load s h⟩, s.doLoad bytes false, rfl,
    fun n h => cycle_askLoad_of_long s h, fun n h hn => cycles_load_aborted s h hn⟩

end Sys2Proof
end
